-- ==== Sys2Proof/Word.lean ====
section
/-!
DEFINITION. The word types of the CORE and the fixed-size byte and word arrays built from them
(spec/00_scope.md sections 4 and 5.1, spec/10_state.md section 1, spec/30_encoding.md rules R62 and R72).
Every quantity is unsigned and every array size is a constant of the hardware, so the sizes live in the types.
-/
namespace Sys2Proof

/-- A byte, 8 bits. -/
abbrev Byte := BitVec 8
/-- A word, 32 bits. -/
abbrev Word := BitVec 32
/-- A 64-bit logical keystream index (rule R43). -/
abbrev Index := BitVec 64
/-- The 6-bit offset inside a block, 0 to 63 (rule R15). -/
abbrev Offset := BitVec 6
/-- The block engine's 7-bit step counter (rules R27, R120). -/
abbrev StepCount := BitVec 7

/-- A command frame: 56 bytes, `F[0]` first (rules R61, R62). -/
abbrev Frame := Vector Byte 56
/-- A response frame: 68 bytes, `CODE` first (rule R72). -/
abbrev Response := Vector Byte 68
/-- The 32 key bytes of a frame (rule R64). -/
abbrev KeyBytes := Vector Byte 32
/-- The 12 nonce bytes of a frame (rule R64). -/
abbrev NonceBytes := Vector Byte 12
/-- The key register file `K[0..7]` (rule R12). -/
abbrev KeyWords := Vector Word 8
/-- The nonce register file `N[0..2]` (rule R13). -/
abbrev NonceWords := Vector Word 3
/-- The 4 by 4 state matrix, flattened row-major to 16 words (rules R10, R111). -/
abbrev Matrix := Vector Word 16
/-- A keystream block, 64 bytes (rule R16). -/
abbrev Block := Vector Byte 64

end Sys2Proof
end

