-- ==== Sys2Proof/Machine/Operands.lean ====
section
/-!
DEFINITION. Byte order and operand assembly: how every operand of every format is formed from frame bytes
(spec/20_memory.md rules R40 to R43, R54; spec/30_encoding.md rules R61, R62, R64), and the register words a
key and a nonce become (spec/10_state.md rules R12, R13).
-/
namespace Sys2Proof.Machine

/-- A word from four bytes, `b0` at the lowest index (rule R41). -/
def le32 (b0 b1 b2 b3 : Byte) : Word :=
  BitVec.ofNat 32 (b0.toNat + 2 ^ 8 * b1.toNat + 2 ^ 16 * b2.toNat + 2 ^ 24 * b3.toNat)

/-- A 64-bit value from eight bytes, `b0` at the lowest index (rule R41). -/
def le64 (b0 b1 b2 b3 b4 b5 b6 b7 : Byte) : Index :=
  BitVec.ofNat 64
    (b0.toNat + 2 ^ 8 * b1.toNat + 2 ^ 16 * b2.toNat + 2 ^ 24 * b3.toNat
      + 2 ^ 32 * b4.toNat + 2 ^ 40 * b5.toNat + 2 ^ 48 * b6.toNat + 2 ^ 56 * b7.toNat)

/-- The four bytes of a word, least significant first (rule R42). -/
def bytesLe32 (w : Word) : Vector Byte 4 :=
  #v[w.extractLsb' 0 8, w.extractLsb' 8 8, w.extractLsb' 16 8, w.extractLsb' 24 8]

/-- The eight bytes of an index, least significant first (rules R40, R61). -/
def bytesLe64 (i : Index) : Vector Byte 8 :=
  #v[i.extractLsb' 0 8, i.extractLsb' 8 8, i.extractLsb' 16 8, i.extractLsb' 24 8,
     i.extractLsb' 32 8, i.extractLsb' 40 8, i.extractLsb' 48 8, i.extractLsb' 56 8]

/-- `OP`, byte 0 (rule R62). -/
def fieldOp (f : Frame) : Byte := f[0]
/-- `KLEN`, byte 1 (rule R62). -/
def fieldKlen (f : Frame) : Byte := f[1]
/-- `NLEN`, byte 2 (rule R62). -/
def fieldNlen (f : Frame) : Byte := f[2]
/-- `DATA`, byte 3 (rule R62). -/
def fieldData (f : Frame) : Byte := f[3]
/-- `A`, bytes 4 to 7 (rule R62). -/
def fieldA (f : Frame) : Word := le32 f[4] f[5] f[6] f[7]
/-- `B`, bytes 8 to 11 (rule R62). -/
def fieldB (f : Frame) : Word := le32 f[8] f[9] f[10] f[11]
/-- `C`, bytes 12 to 15 (rule R62). -/
def fieldC (f : Frame) : Word := le32 f[12] f[13] f[14] f[15]
/-- `D`, bytes 16 to 19 (rule R62). -/
def fieldD (f : Frame) : Word := le32 f[16] f[17] f[18] f[19]
/-- `KEY[0..31]`, bytes 4 to 35 (rule R62). -/
def fieldKey (f : Frame) : KeyBytes := Vector.ofFn fun i : Fin 32 => f[4 + i.val]
/-- `NONCE[0..11]`, bytes 36 to 47 (rule R62). -/
def fieldNonce (f : Frame) : NonceBytes := Vector.ofFn fun i : Fin 12 => f[36 + i.val]
/-- `CTR32`, bytes 48 to 51 (rule R62). -/
def fieldCtr32 (f : Frame) : Word := le32 f[48] f[49] f[50] f[51]
/-- `IDX`, bytes 48 to 55 (rule R62). -/
def fieldIdx (f : Frame) : Index := le64 f[48] f[49] f[50] f[51] f[52] f[53] f[54] f[55]

/-- The eight key words, ascending (rules R12, R64). -/
def keyWords (key : KeyBytes) : KeyWords :=
  Vector.ofFn fun i : Fin 8 =>
    le32 key[4 * i.val] key[4 * i.val + 1] key[4 * i.val + 2] key[4 * i.val + 3]

/-- The three nonce words, ascending (rules R13, R64). -/
def nonceWords (nonce : NonceBytes) : NonceWords :=
  Vector.ofFn fun i : Fin 3 =>
    le32 nonce[4 * i.val] nonce[4 * i.val + 1] nonce[4 * i.val + 2] nonce[4 * i.val + 3]

/-- The block counter of an index: `idx[37:6]` (rule R43). -/
def idxCounter (idx : Index) : Word := idx.extractLsb' 6 32

/-- The intra-block offset of an index: `idx[5:0]` (rule R43). -/
def idxOffset (idx : Index) : Offset := idx.extractLsb' 0 6

end Sys2Proof.Machine
end

