-- ==== Sys2Proof/Syntax.lean ====
section
/-!
DEFINITION. The seven commands of spec/opcode_table.json, one constructor a row, each with the operands that
rule R64 assembles for it (spec/30_encoding.md rules R63, R64, R66). Field sizes are carried by the types, so a
key is always 32 bytes and a nonce always 12, as the frame's fields are.
-/
namespace Sys2Proof

/-- A decoded command (rule R66). -/
inductive Instr where
  /-- QR, format Q: one quarter-round of four words (rule R95). -/
  | qr (a b c d : Word)
  /-- BLOCK, format K: one block transform of a key, a nonce and a counter (rule R122). -/
  | block (key : KeyBytes) (nonce : NonceBytes) (ctr : Word)
  /-- NEW, format N: construct an engine instance (rule R150). -/
  | new (klen nlen : Byte) (key : KeyBytes) (nonce : NonceBytes) (idx : Index)
  /-- SEEK, format S: reposition the cursor (rule R151). -/
  | seek (idx : Index)
  /-- XORB, format D: apply the keystream to one byte (rule R152). -/
  | xorb (data : Byte)
  /-- NEXTB, format Z: return the next keystream byte (rule R153). -/
  | nextb
  /-- RDST, format Z: read the status view (rule R156). -/
  | rdst
  deriving DecidableEq, Repr

end Sys2Proof
end

