-- ==== Sys2Proof/Assembly.lean ====
section
/-!
DEFINITION. The assembler's input as abstract syntax: a source line of spec/30_encoding.md rule R75, and the
two macros of rule R76. The hardware never sees a line or a macro, only the frames they expand to.
Machine/SourceText.lean reads text into lines.
-/
namespace Sys2Proof

/-- A number as rule R75 writes it: a literal (decimal or hexadecimal), a power of two, a sum or a difference. -/
inductive NumExpr where
  | lit (value : Nat)
  | pow2 (exponent : Nat)
  | add (l r : NumExpr)
  | sub (l r : NumExpr)
  deriving DecidableEq, Repr

/-- The value of a number; a difference may be negative, and the well-formedness check refuses it then. -/
def NumExpr.value : NumExpr → Int
  | .lit v => (v : Int)
  | .pow2 e => (2 ^ e : Nat)
  | .add l r => l.value + r.value
  | .sub l r => l.value - r.value

/-- One source line (rules R75, R76). A byte string lists byte 0 first. -/
inductive Line where
  | qr (a b c d : NumExpr)
  | block (key nonce : List Byte) (ctr : NumExpr)
  /-- `klen` and `nlen` are optional; rule R75 gives 32 and 12 as their defaults. -/
  | new (key nonce : List Byte) (idx : NumExpr) (klen nlen : Option NumExpr)
  | seek (idx : NumExpr)
  | xorb (data : NumExpr)
  | nextb
  | rdst
  /-- The macro APPLY (rule R76). -/
  | apply (bytes : List Byte)
  /-- The macro KEYSTREAM (rule R76). -/
  | keystream (count : Nat)
  deriving DecidableEq, Repr

end Sys2Proof
end

