-- ==== Sys2Proof/WellFormed.lean ====
section
/-!
DEFINITION. What is checked before bytes or lines become commands: a command frame has 56 bytes (rule R62), a
frame is canonical when every byte its format does not read is 0 (rule R68; a frame that is not canonical is
executed all the same), and an assembler line's numbers and byte strings fit their fields (rule R75).
A decoded `Instr` needs no check of its own: its operands' sizes are in its types, so an ill-sized key, nonce,
word, index or byte cannot be written down.
-/
namespace Sys2Proof

/-- A list of bytes is a command frame when it has exactly 56 bytes (rule R62). -/
def wellSizedFrame (bytes : List Byte) : Bool := bytes.length == 56

/-- `formatReads op k`: the format of opcode `op` reads frame byte `k` (the layouts of rule R63). Every
command reads byte 0; an illegal opcode reads nothing else (rule R174). -/
def formatReads (op : Byte) (k : Nat) : Bool :=
  k == 0 ||
  (if op = 0x01#8 then 4 ≤ k && k < 20
   else if op = 0x02#8 then 4 ≤ k && k < 52
   else if op = 0x10#8 then k == 1 || k == 2 || (4 ≤ k && k < 56)
   else if op = 0x11#8 then 48 ≤ k && k < 56
   else if op = 0x12#8 then k == 3
   else false)

/-- The canonical encoding of rule R68: every byte the format does not read is 0. -/
def canonicalFrame (f : Frame) : Bool :=
  decide (∀ k : Fin 56, formatReads f[0] k.val = false → f[k] = 0)

/-- A number fits an unsigned field of `width` bits (rule R64: every numeric operand is unsigned). -/
def NumExpr.fits (width : Nat) (e : NumExpr) : Bool :=
  decide (0 ≤ e.value ∧ e.value < 2 ^ width)

/-- A source line is well formed when its numbers fit their fields and its byte strings are no longer than
theirs. BLOCK's strings have the full size (64 and 24 hex digits); only NEW's may be shorter (rule R75). DEDUCED, safe:
log entry 9. -/
def Line.wellFormed : Line → Bool
  | .qr a b c d => a.fits 32 && b.fits 32 && c.fits 32 && d.fits 32
  | .block key nonce ctr => key.length == 32 && nonce.length == 12 && ctr.fits 32
  | .new key nonce idx klen nlen =>
      decide (key.length ≤ 32) && decide (nonce.length ≤ 12) && idx.fits 64 &&
        (klen.getD (.lit 32)).fits 8 && (nlen.getD (.lit 12)).fits 8
  | .seek idx => idx.fits 64
  | .xorb data => data.fits 8
  | .nextb | .rdst => true
  | .apply _ => true
  | .keystream _ => true

end Sys2Proof
end

