-- ==== Sys2Proof/Decode.lean ====
section
/-!
DEFINITION. The decoder of spec/30_encoding.md rules R62 to R70, total on any bytes and rejecting by name, and
after it the encoder written from the same field table.
-/
namespace Sys2Proof

open Sys2Proof.Machine

/-- Why bytes decode to no command. -/
inductive DecodeReject where
  /-- `OP` is one of the 249 values that name no command (rule R67). The machine answers such a frame with the
  fault IllegalCommand (rule R174). -/
  | illegalCommand (op : Byte)
  /-- The bytes are not 56, so they are no frame (rule R62). The command port is 56 bytes wide and cannot carry
  them; only the byte-list entry of the decoder rejects this way. -/
  | notAFrame (length : Nat)
  deriving DecidableEq, Repr

/-- Decoding of a frame: `OP = F[0]` alone selects the command (rule R66), the operands are those of rule R64,
and bytes the format does not read are ignored (rule R68). It depends on no state (rule R70). -/
def decode (f : Frame) : Except DecodeReject Instr :=
  if fieldOp f = 0x01#8 then .ok (.qr (fieldA f) (fieldB f) (fieldC f) (fieldD f))
  else if fieldOp f = 0x02#8 then .ok (.block (fieldKey f) (fieldNonce f) (fieldCtr32 f))
  else if fieldOp f = 0x10#8 then
    .ok (.new (fieldKlen f) (fieldNlen f) (fieldKey f) (fieldNonce f) (fieldIdx f))
  else if fieldOp f = 0x11#8 then .ok (.seek (fieldIdx f))
  else if fieldOp f = 0x12#8 then .ok (.xorb (fieldData f))
  else if fieldOp f = 0x13#8 then .ok .nextb
  else if fieldOp f = 0x20#8 then .ok .rdst
  else .error (.illegalCommand (fieldOp f))

/-- Decoding of any list of bytes: 56 bytes are a frame, any other number is none (rule R62). -/
def decodeBytes (bytes : List Byte) : Except DecodeReject Instr :=
  if h : bytes.length = 56 then decode ⟨⟨bytes⟩, h⟩ else .error (.notAFrame bytes.length)

/-- The opcode of a command (rule R66). -/
def opcode : Instr → Byte
  | .qr .. => 0x01#8
  | .block .. => 0x02#8
  | .new .. => 0x10#8
  | .seek .. => 0x11#8
  | .xorb .. => 0x12#8
  | .nextb => 0x13#8
  | .rdst => 0x20#8

/-- `n` zero bytes: what the canonical encoding puts where a format reads nothing (rule R68). -/
def zeros (n : Nat) : Vector Byte n := Vector.replicate n 0

/-- A frame from its parts (the byte positions of rule R62): `OP`, `KLEN`, `NLEN`, `DATA`, the 32 bytes at 4, the
12 bytes at 36 and the 8 bytes at 48. -/
def frameOf (op klen nlen data : Byte) (area : Vector Byte 32) (nonce : Vector Byte 12)
    (tail : Vector Byte 8) : Frame :=
  Vector.ofFn fun k : Fin 56 =>
    if k.val = 0 then op else if k.val = 1 then klen else if k.val = 2 then nlen else if k.val = 3 then data
    else if _ : k.val < 36 then area[k.val - 4]
    else if _ : k.val < 48 then nonce[k.val - 36]
    else tail[k.val - 48]

/-- The 32 bytes at 4 of a QR frame: the words `A`, `B`, `C`, `D`, then zeros (rules R62, R68). -/
def qrArea (a b c d : Word) : Vector Byte 32 :=
  Vector.ofFn fun k : Fin 32 =>
    if _ : k.val < 4 then (bytesLe32 a)[k.val]
    else if _ : k.val < 8 then (bytesLe32 b)[k.val - 4]
    else if _ : k.val < 12 then (bytesLe32 c)[k.val - 8]
    else if _ : k.val < 16 then (bytesLe32 d)[k.val - 12]
    else 0

/-- The 8 bytes at 48 of a BLOCK frame: `CTR32`, then zeros (rules R62, R68). -/
def ctrTail (ctr : Word) : Vector Byte 8 :=
  Vector.ofFn fun k : Fin 8 => if _ : k.val < 4 then (bytesLe32 ctr)[k.val] else 0

/-- The canonical frame of a command (rules R62, R66, R68, R75). -/
def encode (i : Instr) : Frame :=
  match i with
  | .qr a b c d => frameOf 0x01#8 0 0 0 (qrArea a b c d) (zeros 12) (zeros 8)
  | .block key nonce ctr => frameOf 0x02#8 0 0 0 key nonce (ctrTail ctr)
  | .new klen nlen key nonce idx => frameOf 0x10#8 klen nlen 0 key nonce (bytesLe64 idx)
  | .seek idx => frameOf 0x11#8 0 0 0 (zeros 32) (zeros 12) (bytesLe64 idx)
  | .xorb data => frameOf 0x12#8 0 0 data (zeros 32) (zeros 12) (zeros 8)
  | .nextb => frameOf 0x13#8 0 0 0 (zeros 32) (zeros 12) (zeros 8)
  | .rdst => frameOf 0x20#8 0 0 0 (zeros 32) (zeros 12) (zeros 8)

/-- The frame whose bits are `w`, numbered as rule R61 and the opcode table number them: bit 0 is the least
significant bit of `F[0]`, and byte `k` holds bits `8k+7 .. 8k`. Bits at or above `nbits` are 0. -/
def tableFrame (nbits w : Nat) : Frame :=
  Vector.ofFn fun k : Fin 56 => BitVec.ofNat 8 (w % 2 ^ nbits / 2 ^ (8 * k.val))

/-- The command the decoder reads from an instruction whose bits are `w` (none where it rejects, and none for
more bits than a frame has: DESIGN CHOICE, safe, log entry 11). -/
def decodeTableWord (nbits w : Nat) : Option Instr :=
  if nbits ≤ 448 then
    match decode (tableFrame nbits w) with
    | .ok i => some i
    | .error _ => none
  else none

end Sys2Proof
end

