-- ==== Sys2Proof/Config.lean ====
section
/-!
DEFINITION. What is fixed for the machine (spec/00_scope.md section 4, spec/60_exceptions.md rule R170).
The spec leaves nothing open: spec/92_eei_decisions.md says that no point is OPEN and
spec/93_implementation_defined.md gives every implementation-defined behaviour one value, so this file holds
no free value and no field that an implementation could choose.
-/
namespace Sys2Proof

/-- The four fault causes of rule R170. A fault is a command that ends with a non-zero status code; it does
not stop the machine. -/
inductive ErrCode where
  /-- Raised by NEW when `KLEN` is not 32 (rule R171). -/
  | invalidKeyLength
  /-- Raised by NEW when `KLEN` is 32 and `NLEN` is not 12 (rule R172). -/
  | invalidNonceLength
  /-- Raised by decoding when `OP` names no command (rule R174). -/
  | illegalCommand
  /-- Raised by SEEK, XORB and NEXTB when no engine instance exists (rule R173). -/
  | notConfigured
  deriving DecidableEq, Repr

/-- KEY_BYTES of spec/00_scope.md section 4: the only `KLEN` that NEW accepts. -/
abbrev Config.keyLength : Byte := 32
/-- NONCE_BYTES of spec/00_scope.md section 4: the only `NLEN` that NEW accepts. -/
abbrev Config.nonceLength : Byte := 12
/-- DOUBLE_ROUNDS of spec/00_scope.md section 4 (spec/90_conflicts.md C1: 80 quarter-rounds). -/
abbrev Config.doubleRoundCount : Nat := 10

end Sys2Proof
end

