-- ==== Sys2Proof/Machine/State.lean ====
section
/-!
DEFINITION. The state of the CORE (spec/10_state.md, spec/30_encoding.md rules R60, R71), the reasons a step
could stop, and the state after reset (spec/70_reset_and_hazards.md rule R200).
-/
namespace Sys2Proof.Machine

/-- Reasons for which the machine would stop. There is none: a fault of this spec is a command that ends with a
status code and leaves the CORE ready for the next command (rules R176, R178), and every accepted command
completes (rule R215). Nobody raises a member of this type. DEDUCED, safe: log entry 6. -/
inductive Fault
  deriving DecidableEq, Repr

/-- Reasons for which the model would give no meaning. -/
inductive Refusal where
  /-- Raised by an arm of exec that has no meaning yet. Safe. Every arm has its meaning, so none raises it. -/
  | notModelled (mnemonic : String)
  deriving DecidableEq, Repr

/-- The levels of the CORE's input pins at one step (rule R60): `RST`, `CMD_VALID`, `CMD_FRAME` and `RSP_READY`. -/
structure PortIn where
  rst : Bool
  cmdValid : Bool
  cmdFrame : Frame
  rspReady : Bool
  deriving DecidableEq, Repr

/-- The machine's state. `host` and `received` are not the spec's: they are the outside world, the levels the host
will drive on the input pins and the responses it has taken (rule R71: frames in, frames out). DESIGN CHOICE, safe:
log entry 3. There is no memory (rule R46; DEDUCED, safe: log entry 7) and no step counter `STEP`, which is not state
between commands (rule R27; DEDUCED, safe: log entry 5). -/
@[ext]
structure State where
  /-- `X[0..15]`, the working matrix, scratch (rule R10). -/
  x : Matrix
  /-- `O[0..15]`, the copy of the initial matrix, scratch (rule R11). -/
  o : Matrix
  /-- `K[0..7]`, the key (rule R12). -/
  k : KeyWords
  /-- `N[0..2]`, the nonce (rule R13). -/
  n : NonceWords
  /-- `CTR`, the block counter (rule R14). -/
  ctr : Word
  /-- `OFF`, the intra-block offset (rule R15). -/
  off : Offset
  /-- `KSB[0..63]`, the cached keystream block (rule R16). -/
  ksb : Block
  /-- `KSB_VALID` (rule R17). -/
  ksbValid : Bool
  /-- `KSB_TAG` (rule R18). -/
  ksbTag : Word
  /-- `CONFIGURED` (rule R19). -/
  configured : Bool
  /-- `FAULT`, sticky (rule R21). -/
  fault : Bool
  /-- `LAST_ERR` (rule R22). -/
  lastErr : Byte
  /-- `CMD_READY`, an output pin (rules R60, R71). -/
  cmdReady : Bool
  /-- The response port (rules R60, R71): `RSP_VALID` is 1 exactly when there is a frame here, and the frame is
  `RSP_FRAME`. DEDUCED, safe: log entry 2. -/
  rsp : Option Response
  /-- The input pin levels the host will drive, one entry a step, the next first. -/
  host : List PortIn
  /-- The response frames the host has taken, oldest first. -/
  received : List Response
  deriving DecidableEq, Repr

/-- The state after reset: every register 0, `CMD_READY` 1, `RSP_VALID` 0 (rule R200). The outside world is empty:
the host has driven nothing and taken nothing. -/
def State.reset : State where
  x := Vector.replicate 16 0
  o := Vector.replicate 16 0
  k := Vector.replicate 8 0
  n := Vector.replicate 3 0
  ctr := 0
  off := 0
  ksb := Vector.replicate 64 0
  ksbValid := false
  ksbTag := 0
  configured := false
  fault := false
  lastErr := 0
  cmdReady := true
  rsp := none
  host := []
  received := []

end Sys2Proof.Machine
end

