-- ==== Sys2Proof/Machine/Flags.lean ====
section
/-!
DEFINITION. The flags and the status byte: the cache test, the fault bookkeeping and the status view
(spec/10_state.md rules R17 to R23, spec/60_exceptions.md rule R170). The CORE has no arithmetic flag: the carry
of an addition is recorded nowhere (rules R22, R90).
-/
namespace Sys2Proof.Machine

/-- The status code of a successful command (rule R170). -/
def codeOk : Byte := 0x00

/-- The status code of a fault (rule R170). -/
def errCode : ErrCode → Byte
  | .invalidKeyLength => 0x01
  | .invalidNonceLength => 0x02
  | .illegalCommand => 0x03
  | .notConfigured => 0x04

/-- The cache hits when `KSB_VALID = 1` and `KSB_TAG = CTR` (rules R18, R131). -/
def cacheHit (s : State) : Bool := s.ksbValid && s.ksbTag == s.ctr

/-- `FAULT` and `LAST_ERR` after a fault (rules R21, R22, R176). -/
def recordFault (e : ErrCode) (s : State) : State :=
  { s with fault := true, lastErr := errCode e }

/-- One flag as a bit of a byte. -/
def flagBit (b : Bool) (position : Nat) : Byte := if b then BitVec.twoPow 8 position else 0

/-- Payload byte 0 of the status view: `CONFIGURED`, `KSB_VALID`, `FAULT` in bits 0, 1, 2 (rules R23, R156). -/
def statusFlags (s : State) : Byte :=
  flagBit s.configured 0 ||| flagBit s.ksbValid 1 ||| flagBit s.fault 2

/-- The 12-byte status view (rules R23, R156). -/
def statusView (s : State) : List Byte :=
  [statusFlags s, s.lastErr, s.off.setWidth 8, 0] ++ (bytesLe32 s.ctr).toList ++ (bytesLe32 s.ksbTag).toList

end Sys2Proof.Machine
end

