-- ==== Sys2Proof/Machine/Ops.lean ====
section
/-!
DEFINITION. The named operations on the state: each register group is written in one place, and the response, a
fault, reset and the two handshakes are one operation each (spec/30_encoding.md rules R71, R72;
spec/60_exceptions.md rule R176; spec/70_reset_and_hazards.md rules R200, R201).
-/
namespace Sys2Proof.Machine

/-- Write the scratch matrices `X` and `O` (rules R10, R11). -/
def setScratch (x o : Matrix) (s : State) : State := { s with x := x, o := o }

/-- Write `K` and `N`, all words together (rules R12, R13). -/
def setKeyNonce (k : KeyWords) (n : NonceWords) (s : State) : State := { s with k := k, n := n }

/-- `cursor <- (c, o)`: write `CTR` and `OFF` together (spec/00_scope.md section 5.2). -/
def setCursor (c : Word) (o : Offset) (s : State) : State := { s with ctr := c, off := o }

/-- Write `KSB`, `KSB_TAG` and `KSB_VALID = 1` together (rules R45, R133). -/
def setCache (block : Block) (tag : Word) (s : State) : State :=
  { s with ksb := block, ksbTag := tag, ksbValid := true }

/-- `KSB_VALID <- 0`; the bytes and the tag stay, stale (rules R17, R18). -/
def dropCache (s : State) : State := { s with ksbValid := false }

/-- `CONFIGURED <- 1` (rule R19). -/
def setConfigured (s : State) : State := { s with configured := true }

/-- A response frame: `CODE`, three zero bytes, the payload padded with zeros to 64 bytes (rule R72). -/
def responseOf (code : Byte) (payload : List Byte) : Response :=
  Vector.ofFn fun j : Fin 68 =>
    if j.val = 0 then code else if j.val < 4 then 0 else payload.getD (j.val - 4) 0

/-- `respond(code, payload)`: present a response frame, `RSP_VALID <- 1` (rules R71, R72). -/
def respond (code : Byte) (payload : List Byte) (s : State) : State :=
  { s with rsp := some (responseOf code payload) }

/-- `raise e`, the entry into a fault: `FAULT <- 1`, `LAST_ERR <- e`, the response carries the code and an all-zero
payload, and nothing else changes (rule R176). There is no handler, no saved context and no return (rule R178). -/
def raise (e : ErrCode) (s : State) : State := respond (errCode e) [] (recordFault e s)

/-- `RST` applied: every register takes its reset value and no response is produced (rules R200, R201). The
outside world is not part of the CORE and stays (DESIGN CHOICE, safe: log entry 3); reset comes between commands only
(DEDUCED, safe: log entry 8). -/
def resetCore (s : State) : State := { State.reset with host := s.host, received := s.received }

/-- The host's pin script after this step. -/
def setHost (rest : List PortIn) (s : State) : State := { s with host := rest }

/-- A command has been accepted: `CMD_READY` is 0 until its response has been taken (rule R71). -/
def acceptCmd (s : State) : State := { s with cmdReady := false }

/-- The host takes the presented response: `RSP_VALID <- 0` and `CMD_READY <- 1` (rule R71). -/
def takeRsp (r : Response) (s : State) : State :=
  { s with rsp := none, cmdReady := true, received := s.received ++ [r] }

end Sys2Proof.Machine
end

