-- ==== Sys2Proof/Machine/Qrm.lean ====
section
/-!
DEFINITION. The quarter-round mixer and the QR command (spec/40_quarter_round.md rules R90 to R97). It holds no
state.
-/
namespace Sys2Proof.Machine

/-- The four words of a quarter-round, in the order `a, b, c, d` (rule R94). -/
structure Quad where
  a : Word
  b : Word
  c : Word
  d : Word
  deriving DecidableEq, Repr

/-- Addition modulo 2^32; the carry is dropped (rule R90). -/
def add32 (a b : Word) : Word := a + b

/-- Bitwise exclusive-or of words (rule R91). -/
def xor32 (a b : Word) : Word := a ^^^ b

/-- Bitwise exclusive-or of bytes (rules R91, R152). -/
def xor8 (a b : Byte) : Byte := a ^^^ b

/-- Left rotation, for `0 < n < 32` (rule R92). -/
def rotl32 (x : Word) (n : Nat) : Word := (x <<< n) ||| (x >>> (32 - n))

/-- One line of the quarter-round: the new `p` and the new `s` (rule R93). -/
def arx (p q s : Word) (n : Nat) : Word × Word :=
  let p' := add32 p q
  (p', rotl32 (xor32 s p') n)

/-- The quarter-round: four lines with rotations 16, 12, 8 and 7, each using the values the lines before it left
(rule R94). -/
def quarterRound (q : Quad) : Quad :=
  let (a, d) := arx q.a q.b q.d 16
  let (c, b) := arx q.c d q.b 12
  let (a, d) := arx a b d 8
  let (c, b) := arx c d b 7
  ⟨a, b, c, d⟩

/-- The payload of QR: the four words, least significant byte first (rules R73, R95). -/
def quadBytes (q : Quad) : List Byte :=
  (bytesLe32 q.a).toList ++ (bytesLe32 q.b).toList ++ (bytesLe32 q.c).toList ++ (bytesLe32 q.d).toList

/-- QR (rule R95): reads and writes no register, legal in every state, never faults. -/
def execQr (a b c d : Word) (s : State) : Host.Outcome State Fault Refusal :=
  .next (respond codeOk (quadBytes (quarterRound ⟨a, b, c, d⟩)) s)

end Sys2Proof.Machine
end

