-- ==== Sys2Proof/Machine/Bpe.lean ====
section
/-!
DEFINITION. The block permutation engine and the BLOCK command (spec/41_block_transform.md rules R110 to R123),
and the engine's sequencer (rule R120).
-/
namespace Sys2Proof.Machine

/-- The constant word `C0`, "expa" (rule R110). -/
def const0 : Word := 0x61707865
/-- The constant word `C1`, "nd 3" (rule R110). -/
def const1 : Word := 0x3320646E
/-- The constant word `C2`, "2-by" (rule R110). -/
def const2 : Word := 0x79622D32
/-- The constant word `C3`, "te k" (rule R110). -/
def const3 : Word := 0x6B206574

/-- Step 1, matrix initialisation, from the words of a key and a nonce (rules R111, R112). -/
def initMatrix (k : KeyWords) (n : NonceWords) (ctr : Word) : Matrix :=
  #v[const0, const1, const2, const3,
     k[0], k[1], k[2], k[3],
     k[4], k[5], k[6], k[7],
     ctr, n[0], n[1], n[2]]

/-- The indices of the four words a quarter-round works on (rule R114). -/
structure Tuple where
  i : Fin 16
  j : Fin 16
  k : Fin 16
  l : Fin 16
  deriving DecidableEq, Repr

/-- A quarter-round in place on four matrix words (rule R114). -/
def qrAt (t : Tuple) (x : Matrix) : Matrix :=
  let q := quarterRound ⟨x[t.i], x[t.j], x[t.k], x[t.l]⟩
  (((x.set t.i q.a).set t.j q.b).set t.k q.c).set t.l q.d

/-- Lane `n` of the column round (rule R115). -/
def columnTuple (lane : Fin 4) : Tuple :=
  match lane with
  | 0 => ⟨0, 4, 8, 12⟩
  | 1 => ⟨1, 5, 9, 13⟩
  | 2 => ⟨2, 6, 10, 14⟩
  | 3 => ⟨3, 7, 11, 15⟩

/-- Lane `n` of the diagonal round (rule R116). -/
def diagonalTuple (lane : Fin 4) : Tuple :=
  match lane with
  | 0 => ⟨0, 5, 10, 15⟩
  | 1 => ⟨1, 6, 11, 12⟩
  | 2 => ⟨2, 7, 8, 13⟩
  | 3 => ⟨3, 4, 9, 14⟩

/-- The quarter-rounds of the given lanes, in the given order. -/
def runLanes (tuple : Fin 4 → Tuple) (lanes : List (Fin 4)) (x : Matrix) : Matrix :=
  lanes.foldl (fun y lane => qrAt (tuple lane) y) x

/-- The column round, in the listed order (rule R115). -/
def columnRound (x : Matrix) : Matrix := runLanes columnTuple [0, 1, 2, 3] x

/-- The diagonal round, in the listed order (rule R116). -/
def diagonalRound (x : Matrix) : Matrix := runLanes diagonalTuple [0, 1, 2, 3] x

/-- `count` double-rounds, each a column round and then a diagonal round (rule R117). -/
def doubleRounds : Nat → Matrix → Matrix
  | 0, x => x
  | count + 1, x => doubleRounds count (diagonalRound (columnRound x))

/-- Step 3: the ten double-rounds (rule R117). -/
def rounds (x : Matrix) : Matrix := doubleRounds Config.doubleRoundCount x

/-- Step 4, the final addition, word by word (rule R118). -/
def finalAdd (x o : Matrix) : Matrix := Vector.ofFn fun i : Fin 16 => add32 x[i] o[i]

/-- Step 5, the serialiser: word 0 first, least significant byte first (rules R54, R119). -/
def serialise (y : Matrix) : Block :=
  Vector.ofFn fun j : Fin 64 => (bytesLe32 (y[j.val / 4]))[j.val % 4]

/-- The matrix after the final addition (rules R112 to R118). It and `blockOf` are irreducible so that no proof unfolds
ten double-rounds by accident; `finalMatrix_eq` and `blockOf_eq` (Laws/Ops.lean) say what they are. -/
@[irreducible] def finalMatrix (k : KeyWords) (n : NonceWords) (ctr : Word) : Matrix :=
  finalAdd (rounds (initMatrix k n ctr)) (initMatrix k n ctr)

/-- `block`, the whole transform, from the words of a key and a nonce (rule R121). -/
@[irreducible] def blockOf (k : KeyWords) (n : NonceWords) (ctr : Word) : Block := serialise (finalMatrix k n ctr)

/-- A block transform as the engine runs it on its registers: `X` is initialised, copied into `O`, mixed, and
added to `O`; `X` ends as the final matrix and `O` as the initial one (rules R112, R113, R117, R118, R121). That they keep
these values after the command is DEDUCED, safe but for claims about the values themselves: log entry 5. -/
def transform (k : KeyWords) (n : NonceWords) (ctr : Word) (s : State) : State :=
  setScratch (finalMatrix k n ctr) (initMatrix k n ctr) s

/-- BLOCK (rule R122): key, nonce and counter come from the frame, only the scratch is written, never faults. -/
def execBlock (key : KeyBytes) (nonce : NonceBytes) (ctr : Word) (s : State) :
    Host.Outcome State Fault Refusal :=
  let t := transform (keyWords key) (nonceWords nonce) ctr s
  .next (respond codeOk (serialise t.x).toList t)

/-- The block engine between two quarter-rounds: its registers and its step counter `STEP` (rules R27, R120). DEDUCED,
safe: log entry 5. -/
structure Engine where
  x : Matrix
  o : Matrix
  step : StepCount
  deriving DecidableEq, Repr

/-- The tuple of step `q`: `q[2]` is the phase, `q[1:0]` the lane (rule R120). -/
def stepTuple (q : StepCount) : Tuple :=
  let lane : Fin 4 := (q.extractLsb' 0 2).toFin
  if q[2] then diagonalTuple lane else columnTuple lane

/-- The engine at the start of a block transform: `X` initialised, copied into `O`, `STEP` 0 (rule R120). -/
def Engine.start (x : Matrix) : Engine := ⟨x, x, 0⟩

/-- One step of the sequencer: the quarter-round of the tuple `STEP` selects (rule R120). -/
def Engine.tick (e : Engine) : Engine := { e with x := qrAt (stepTuple e.step) e.x, step := e.step + 1 }

/-- `count` steps of the sequencer. -/
def Engine.ticks : Nat → Engine → Engine
  | 0, e => e
  | count + 1, e => (Engine.ticks count e).tick

/-- The sequencer's 80 quarter-rounds and then the final addition and the serialiser (rule R120). -/
def Engine.run (x : Matrix) : Block :=
  let e := Engine.ticks 80 (Engine.start x)
  serialise (finalAdd e.x e.o)

end Sys2Proof.Machine
end

