-- ==== Sys2Proof/Machine/Ksg.lean ====
section
/-!
DEFINITION. The keystream generator: the cursor, the lazy block cache and the next byte
(spec/42_keystream_cursor.md rules R130 to R139).
-/
namespace Sys2Proof.Machine

/-- `position(idx)`: set the cursor; no block is computed (rules R130, R132). -/
def position (idx : Index) (s : State) : State := setCursor (idxCounter idx) (idxOffset idx) s

/-- `fill()`: on a miss, generate the block of the current key, nonce and counter and cache it (rule R133). The
test does not look at `OFF` (rule R131). -/
def fill (s : State) : State :=
  if cacheHit s then s
  else
    let t := transform s.k s.n s.ctr s
    setCache (serialise t.x) s.ctr t

/-- `peek()`: the cached byte at the cursor, `KSB[OFF]` (rule R134). -/
def peek (s : State) : Byte := s.ksb[s.off.toNat]

/-- `advance()`: one byte forward; at the last byte of a block the counter increments, wrapping, and the cache is
dropped (rules R135, R137). -/
def advance (s : State) : State :=
  if s.off = 63#6 then dropCache (setCursor (add32 s.ctr 1) 0 s)
  else setCursor s.ctr (s.off + 1) s

/-- `next_byte()`: fill, read the byte, then move the cursor (rule R136). -/
def nextByte (s : State) : Byte × State :=
  let t := fill s
  (peek t, advance t)

end Sys2Proof.Machine
end

