-- ==== Sys2Proof/Machine/CipherEngine.lean ====
section
/-!
DEFINITION. The command layer: NEW, SEEK, XORB, NEXTB and RDST (spec/43_cipher_engine.md rules R150 to R156). The
checks of each command stand in the order of spec/60_exceptions.md rule R175.
-/
namespace Sys2Proof.Machine

/-- NEW (rule R150): check the key length, then the nonce length, then write key, nonce and cursor, drop the cache
and set `CONFIGURED`. -/
def execNew (klen nlen : Byte) (key : KeyBytes) (nonce : NonceBytes) (idx : Index) (s : State) :
    Host.Outcome State Fault Refusal :=
  if klen ≠ Config.keyLength then .next (raise .invalidKeyLength s)
  else if nlen ≠ Config.nonceLength then .next (raise .invalidNonceLength s)
  else
    .next (respond codeOk []
      (setConfigured (dropCache (position idx (setKeyNonce (keyWords key) (nonceWords nonce) s)))))

/-- Discard a valid cached block whose tag is not the (new) counter (rules R17, R151). -/
def discardStale (s : State) : State :=
  if s.ksbValid = true ∧ s.ksbTag ≠ s.ctr then dropCache s else s

/-- SEEK (rule R151): any index is accepted; the cache is kept if it holds the new block. -/
def execSeek (idx : Index) (s : State) : Host.Outcome State Fault Refusal :=
  if s.configured = false then .next (raise .notConfigured s)
  else .next (respond codeOk [] (discardStale (position idx s)))

/-- XORB (rule R152). -/
def execXorb (data : Byte) (s : State) : Host.Outcome State Fault Refusal :=
  if s.configured = false then .next (raise .notConfigured s)
  else .next (respond codeOk [xor8 data (nextByte s).1] (nextByte s).2)

/-- NEXTB (rule R153): the keystream byte itself. -/
def execNextb (s : State) : Host.Outcome State Fault Refusal :=
  if s.configured = false then .next (raise .notConfigured s)
  else .next (respond codeOk [(nextByte s).1] (nextByte s).2)

/-- RDST (rule R156): respond with the status view; no register changes, never faults. -/
def execRdst (s : State) : Host.Outcome State Fault Refusal := .next (respond codeOk (statusView s) s)

end Sys2Proof.Machine
end

