-- ==== Sys2Proof/Machine/Dispatch.lean ====
section
/-!
DEFINITION. The dispatch of a decoded command to its meaning, one arm a row of spec/opcode_table.json.
-/
namespace Sys2Proof.Machine

def exec (i : Instr) (s : State) : Host.Outcome State Fault Refusal :=
  match i with
  | .qr a b c d => Sys2Proof.Machine.execQr a b c d s
  | .block key nonce ctr => Sys2Proof.Machine.execBlock key nonce ctr s
  | .new klen nlen key nonce idx => Sys2Proof.Machine.execNew klen nlen key nonce idx s
  | .seek idx => Sys2Proof.Machine.execSeek idx s
  | .xorb data => Sys2Proof.Machine.execXorb data s
  | .nextb => Sys2Proof.Machine.execNextb s
  | .rdst => Sys2Proof.Machine.execRdst s

end Sys2Proof.Machine
end

