-- ==== Sys2Proof/Machine/Port.lean ====
section
/-!
DEFINITION. The ports: reset, the two handshakes, and the execution of an accepted frame
(spec/30_encoding.md rules R60, R70, R71; spec/60_exceptions.md rules R174, R175; spec/70_reset_and_hazards.md
rule R201).
-/
namespace Sys2Proof.Machine

/-- Execute a frame: a frame that decodes runs its command, one that does not faults with IllegalCommand (rules
R174, R175). -/
def serveFrame (f : Frame) (s : State) : Host.Outcome State Fault Refusal :=
  match decode f with
  | .ok i => exec i s
  | .error _ => .next (raise .illegalCommand s)

/-- One step of the port under the given pin levels. Reset has priority over everything (rule R201); a command is
accepted when `CMD_VALID` and `CMD_READY` are both 1 and is executed at once (rules R47, R71); a presented
response is taken when `RSP_READY` is 1 (rule R71); otherwise nothing happens. DESIGN CHOICE, safe: a command is one
step and its response another (log entry 1); a response standing while `CMD_READY` is 1 is replaced (log entry 2). -/
def portStep (p : PortIn) (s : State) : Host.Outcome State Fault Refusal :=
  if p.rst = true then .next (resetCore s)
  else if p.cmdValid = true ∧ s.cmdReady = true then serveFrame p.cmdFrame (acceptCmd s)
  else
    match s.rsp with
    | some r => if p.rspReady = true then .next (takeRsp r s) else .next s
    | none => .next s

/-- One step of the machine: drive the host's next pin levels; with none left the CORE is idle. DESIGN CHOICE, safe: log
entry 3. -/
def pinStep (s : State) : Host.Outcome State Fault Refusal :=
  match s.host with
  | [] => .next s
  | p :: rest => portStep p (setHost rest s)

/-- The host offers a command frame. -/
def offer (f : Frame) : PortIn := ⟨false, true, f, false⟩

/-- The host is ready for a response. -/
def collect : PortIn := ⟨false, false, zeros 56, true⟩

/-- The host applies reset. -/
def assertReset : PortIn := ⟨true, false, zeros 56, false⟩

/-- The pin script of a host that sends commands one after another and takes each response (rule R71). -/
def driveFrames (frames : List Frame) : List PortIn := frames.flatMap fun f => [offer f, collect]

/-- A state in which the very next step accepts the frame `f`: the port is free and the host offers `f` next. DESIGN
CHOICE, safe: log entry 4. -/
def placeFrame (f : Frame) (s : State) : State :=
  { s with cmdReady := true, rsp := none, host := offer f :: s.host }

end Sys2Proof.Machine
end

