-- ==== Sys2Proof/Machine/Step.lean ====
section
/-!
DEFINITION. One step of the machine, and the placing of a table word where the step takes its next command. The
CORE fetches nothing and has no program counter (spec/10_state.md rule R20): a command comes from the host through
the command port, so the placing is the host's offer of the frame.
-/
namespace Sys2Proof.Machine

/-- One step (rules R47, R71, R201). -/
def step (s : State) : Host.Outcome State Fault Refusal := pinStep s

/-- `s` with the command of bits `w` offered at a free command port, so that the next step accepts and runs it. -/
def State.withFetchWord (s : State) (nbits w : Nat) : State := placeFrame (tableFrame nbits w) s

end Sys2Proof.Machine
end

