-- ==== Sys2Proof/Machine/Assembler.lean ====
section
/-!
DEFINITION. The assembler: the commands a source line stands for and the frames it emits (spec/30_encoding.md
rules R75, R76). The hardware sees only the frames.
-/
namespace Sys2Proof.Machine

/-- A number as an unsigned field of `width` bits (rule R64). -/
def numField (width : Nat) (e : NumExpr) : BitVec width := BitVec.ofInt width e.value

/-- A byte string in a field of `size` bytes, padded with zero bytes (rule R75). -/
def padBytes (size : Nat) (bytes : List Byte) : Vector Byte size :=
  Vector.ofFn fun i : Fin size => bytes.getD i.val 0

/-- The commands of a line. NEW's lengths default to 32 and 12 (rule R75); APPLY is one XORB a byte in ascending
order, KEYSTREAM is NEXTB repeated, and an empty macro is no command (rule R76). -/
def lineCommands (line : Line) : List Instr :=
  match line with
  | .qr a b c d => [.qr (numField 32 a) (numField 32 b) (numField 32 c) (numField 32 d)]
  | .block key nonce ctr => [.block (padBytes 32 key) (padBytes 12 nonce) (numField 32 ctr)]
  | .new key nonce idx klen nlen =>
      [.new (numField 8 (klen.getD (.lit 32))) (numField 8 (nlen.getD (.lit 12)))
        (padBytes 32 key) (padBytes 12 nonce) (numField 64 idx)]
  | .seek idx => [.seek (numField 64 idx)]
  | .xorb data => [.xorb (numField 8 data)]
  | .nextb => [.nextb]
  | .rdst => [.rdst]
  | .apply bytes => bytes.map .xorb
  | .keystream count => List.replicate count .nextb

/-- The frames a line emits (rule R75). -/
def assembleLine (line : Line) : List Frame := (lineCommands line).map encode

/-- The frames of a program, line after line. -/
def assemble (program : List Line) : List Frame := program.flatMap assembleLine

end Sys2Proof.Machine
end

