-- ==== Sys2Proof/Machine/SourceText.lean ====
section
/-!
DEFINITION. The assembler's source text: from the characters of a line to the line, and from a program's lines to its
frames (spec/30_encoding.md rules R75, R76). A character list stands for a line of text. What rule R75 leaves open of the
text is in log entry 9 (DESIGN CHOICE, safe).
-/
namespace Sys2Proof.Machine

/-- Blanks between the parts of a line. -/
def isBlank (c : Char) : Bool := c == ' ' || c == '\t'

/-- A text without the blanks at its ends. -/
def trimText (cs : List Char) : List Char := ((cs.dropWhile isBlank).reverse.dropWhile isBlank).reverse

/-- The part of a line before its comment: `;` starts a comment (rule R75), outside a quoted string. -/
def dropComment : Bool → List Char → List Char
  | _, [] => []
  | quoted, c :: cs =>
    if c = ';' ∧ quoted = false then [] else c :: dropComment (quoted ^^ (c == '"')) cs

/-- The comma-separated operands of a line; a comma inside a quoted string is part of the string. -/
def splitOperands : Bool → List Char → List (List Char)
  | _, [] => [[]]
  | quoted, c :: cs =>
    if c = ',' ∧ quoted = false then [] :: splitOperands false cs
    else
      match splitOperands (quoted ^^ (c == '"')) cs with
      | first :: rest => (c :: first) :: rest
      | [] => [[c]]

/-- The value of a digit, decimal or hexadecimal. -/
def digitValue (c : Char) : Option Nat :=
  if '0' ≤ c ∧ c ≤ '9' then some (c.toNat - 48)
  else if 'a' ≤ c ∧ c ≤ 'f' then some (c.toNat - 87)
  else if 'A' ≤ c ∧ c ≤ 'F' then some (c.toNat - 55)
  else none

/-- The number of a run of digits in a base. -/
def readDigits (base : Nat) : Nat → List Char → Option Nat
  | acc, [] => some acc
  | acc, c :: cs =>
    match digitValue c with
    | some d => if d < base then readDigits base (base * acc + d) cs else none
    | none => none

/-- A literal: decimal, or `0x` hexadecimal (rule R75). -/
def readLiteral : List Char → Option Nat
  | [] => none
  | '0' :: 'x' :: d :: ds => readDigits 16 0 (d :: ds)
  | d :: ds => readDigits 10 0 (d :: ds)

/-- The pieces of a text between the characters that `sep` picks, each but the first with the character before it. -/
def splitAtSep (sep : Char → Bool) (cs : List Char) : List Char × List (Char × List Char) :=
  cs.foldr (fun c acc => if sep c then ([], (c, acc.1) :: acc.2) else (c :: acc.1, acc.2)) ([], [])

/-- A literal or `2^n` (rule R75). -/
def readTerm (cs : List Char) : Option NumExpr :=
  match splitAtSep (· == '^') cs with
  | (whole, []) => (readLiteral (trimText whole)).map .lit
  | (base, [(_, exponent)]) =>
    if trimText base = ['2'] then (readLiteral (trimText exponent)).map .pow2 else none
  | _ => none

/-- A number: terms joined by `+` and `-`, from left to right (rule R75). -/
def readNumber (cs : List Char) : Option NumExpr :=
  let pieces := splitAtSep (fun c => c == '+' || c == '-') cs
  pieces.2.foldl
    (fun left piece =>
      match left, readTerm piece.2 with
      | some l, some r => some (if piece.1 = '+' then .add l r else .sub l r)
      | _, _ => none)
    (readTerm pieces.1)

/-- The bytes of a run of hex digits, byte 0 first (rule R75). -/
def readHexBytes : List Char → Option (List Byte)
  | [] => some []
  | [_] => none
  | hi :: lo :: rest =>
    match digitValue hi, digitValue lo, readHexBytes rest with
    | some h, some l, some bytes => some (BitVec.ofNat 8 (16 * h + l) :: bytes)
    | _, _, _ => none

/-- The characters of a double-quoted ASCII string, up to its closing quote, which must end the text (rule R75). -/
def readQuoted : List Char → Option (List Byte)
  | [] => none
  | ['"'] => some []
  | c :: cs =>
    if c = '"' ∨ 128 ≤ c.toNat then none else (readQuoted cs).map (BitVec.ofNat 8 c.toNat :: ·)

/-- A byte string: hex digits, or a double-quoted ASCII string (rule R75). -/
def readByteString : List Char → Option (List Byte)
  | '"' :: cs => readQuoted cs
  | cs => readHexBytes cs

/-- The text of a named operand, `name=...` (rule R75). -/
def readNamed (name : List Char) (cs : List Char) : Option (List Char) :=
  if name.isPrefixOf cs then
    match trimText (cs.drop name.length) with
    | '=' :: rest => some (trimText rest)
    | _ => none
  else none

/-- The optional lengths of NEW, in the order rule R75 writes them. -/
def readLengths : List (List Char) → Option (Option NumExpr × Option NumExpr)
  | [] => some (none, none)
  | [x] =>
    match readNamed ['k', 'l', 'e', 'n'] x, readNamed ['n', 'l', 'e', 'n'] x with
    | some v, _ => (readNumber v).map fun e => (some e, none)
    | none, some v => (readNumber v).map fun e => (none, some e)
    | none, none => none
  | [x, y] =>
    match readNamed ['k', 'l', 'e', 'n'] x, readNamed ['n', 'l', 'e', 'n'] y with
    | some v, some w =>
      match readNumber v, readNumber w with
      | some e, some e' => some (some e, some e')
      | _, _ => none
    | _, _ => none
  | _ => none

/-- The line of a mnemonic and its operands (rules R75, R76). -/
def readOperation (mnemonic : List Char) (operands : List (List Char)) : Option Line :=
  if mnemonic = ['Q', 'R'] then
    match operands.map readNumber with
    | [some a, some b, some c, some d] => some (.qr a b c d)
    | _ => none
  else if mnemonic = ['B', 'L', 'O', 'C', 'K'] then
    match operands with
    | [x, y, z] =>
      match (readNamed ['k', 'e', 'y'] x).bind readByteString,
        (readNamed ['n', 'o', 'n', 'c', 'e'] y).bind readByteString,
        (readNamed ['c', 't', 'r'] z).bind readNumber with
      | some key, some nonce, some ctr => some (.block key nonce ctr)
      | _, _, _ => none
    | _ => none
  else if mnemonic = ['N', 'E', 'W'] then
    match operands with
    | x :: y :: z :: lengths =>
      match (readNamed ['k', 'e', 'y'] x).bind readByteString,
        (readNamed ['n', 'o', 'n', 'c', 'e'] y).bind readByteString,
        (readNamed ['i', 'd', 'x'] z).bind readNumber, readLengths lengths with
      | some key, some nonce, some idx, some (klen, nlen) => some (.new key nonce idx klen nlen)
      | _, _, _, _ => none
    | _ => none
  else if mnemonic = ['S', 'E', 'E', 'K'] then
    match operands with
    | [x] => (readNumber x).map .seek
    | _ => none
  else if mnemonic = ['X', 'O', 'R', 'B'] then
    match operands with
    | [x] => (readNumber x).map .xorb
    | _ => none
  else if mnemonic = ['N', 'E', 'X', 'T', 'B'] then
    if operands = [[]] then some .nextb else none
  else if mnemonic = ['R', 'D', 'S', 'T'] then
    if operands = [[]] then some .rdst else none
  else if mnemonic = ['A', 'P', 'P', 'L', 'Y'] then
    match operands with
    | [x] => (readByteString x).map .apply
    | _ => none
  else if mnemonic = ['K', 'E', 'Y', 'S', 'T', 'R', 'E', 'A', 'M'] then
    match operands with
    | [x] => (readNumber x).bind fun e => if 0 ≤ e.value then some (.keystream e.value.toNat) else none
    | _ => none
  else none

/-- A line of text: no line where there is nothing but a comment, else the well-formed line it writes; `none` where the
text is none (rule R75: one command per line). -/
def readLine (text : List Char) : Option (List Line) :=
  let body := trimText (dropComment false text)
  if body = [] then some []
  else
    let operands := splitOperands false (trimText (body.dropWhile fun c => !isBlank c))
    match readOperation (body.takeWhile fun c => !isBlank c) (operands.map trimText) with
    | some line => if line.wellFormed then some [line] else none
    | none => none

/-- The frames of a program's text, line by line; `none` where a line is not one. -/
def assembleText : List (List Char) → Option (List Frame)
  | [] => some []
  | text :: rest =>
    match readLine text, assembleText rest with
    | some lines, some frames => some (assemble lines ++ frames)
    | _, _ => none

end Sys2Proof.Machine
end

