-- ==== Sys2Proof/Machine/Macros.lean ====
section
/-!
DEFINITION. Command sequences as the host sees them: a sequence of commands, and the macros APPLY and KEYSTREAM with
their stop at the first fault (spec/43_cipher_engine.md rules R157, R158; spec/20_memory.md rule R49).
-/
namespace Sys2Proof.Machine

/-- The status code of the presented response; 0 where there is none. -/
def responseCode (s : State) : Byte :=
  match s.rsp with
  | some r => r[0]
  | none => 0

/-- `PAYLOAD[0]` of the presented response; 0 where there is none. -/
def payloadByte (s : State) : Byte :=
  match s.rsp with
  | some r => r[4]
  | none => 0

/-- Commands executed one after another (rule R49). -/
def runCommands : List Instr → State → Host.Outcome State Fault Refusal
  | [], s => .next s
  | i :: rest, s =>
    match exec i s with
    | .next t => runCommands rest t
    | .fault r => .fault r
    | .refused r => .refused r

/-- APPLY on the host's buffer (rule R157): the state and the buffer afterwards. At the first fault the macro stops
and the bytes not yet processed are left unchanged. DEDUCED, safe: log entry 10. -/
def applyMacro : List Byte → State → State × List Byte
  | [], s => (s, [])
  | b :: rest, s =>
    match exec (.xorb b) s with
    | .next t =>
      if responseCode t ≠ codeOk then (t, b :: rest)
      else
        let (u, out) := applyMacro rest t
        (u, payloadByte t :: out)
    | .fault _ => (s, b :: rest)
    | .refused _ => (s, b :: rest)

/-- KEYSTREAM (rule R158): the state and the collected bytes afterwards; it stops at the first fault. DESIGN CHOICE,
unsafe: where it faults, which it does only without an engine instance, the bytes are those collected before the fault,
none, and not the zeros that APPLY on a buffer of zeros leaves (log entry 14). -/
def keystreamMacro : Nat → State → State × List Byte
  | 0, s => (s, [])
  | count + 1, s =>
    match exec .nextb s with
    | .next t =>
      if responseCode t ≠ codeOk then (t, [])
      else
        let (u, out) := keystreamMacro count t
        (u, payloadByte t :: out)
    | .fault _ => (s, [])
    | .refused _ => (s, [])

end Sys2Proof.Machine
end

