-- ==== Sys2Proof/Safety.lean ====
section
/-!
DEFINITION. The terms claims are stated in: the keystream as a function of key, nonce and index, the cursor as an
index, the invariant of a safe run, and arithmetic on natural numbers that restates the mixer without bit vectors.
-/
namespace Sys2Proof.Safety

open Sys2Proof.Machine

/-- The byte index the cursor denotes, `64 * CTR + OFF` (rule R43). -/
def cursorIndex (s : State) : Nat := 64 * s.ctr.toNat + s.off.toNat

/-- `KS(key, nonce, idx)`, the keystream byte at an index, from the words of key and nonce (rule R56). Indices
alias modulo 2^38 because the counter is 32 bits (rule R55). -/
def keystreamByte (k : KeyWords) (n : NonceWords) (index : Nat) : Byte :=
  (blockOf k n (BitVec.ofNat 32 (index / 64)))[index % 64]

/-- The keystream bytes at `index`, `index + 1`, ..., `count` of them. -/
def keystreamBytes (k : KeyWords) (n : NonceWords) (index count : Nat) : List Byte :=
  (List.range count).map fun j => keystreamByte k n (index + j)

/-- A buffer combined byte by byte with the keystream from `index` on. -/
def xorKeystream (k : KeyWords) (n : NonceWords) (index : Nat) (buf : List Byte) : List Byte :=
  List.zipWith (fun b z => b ^^^ z) buf (keystreamBytes k n index buf.length)

/-- A valid cache is the block of the current cursor under the current key and nonce (rule R26). -/
def CacheSound (s : State) : Prop :=
  s.ksbValid = true →
    s.configured = true ∧ s.ksbTag = s.ctr ∧ s.ksb = blockOf s.k s.n s.ctr

/-- Until an engine instance exists, its registers hold their reset values (rules R12 to R19). -/
def UnconfiguredAtReset (s : State) : Prop :=
  s.configured = false →
    s.k = State.reset.k ∧ s.n = State.reset.n ∧ s.ctr = 0 ∧ s.off = 0 ∧
      s.ksb = State.reset.ksb ∧ s.ksbValid = false ∧ s.ksbTag = 0

/-- `FAULT` says exactly that `LAST_ERR` records a fault, and `LAST_ERR` is one of the codes of rule R170 (rules
R21, R22). -/
def FaultRecorded (s : State) : Prop :=
  (s.fault = true ↔ s.lastErr ≠ codeOk) ∧ (s.lastErr = codeOk ∨ ∃ e, s.lastErr = errCode e)

/-- A response frame of rule R72: reserved bytes 0, a code of rule R170, an all-zero payload after a fault. -/
def ResponseShape (r : Response) : Prop :=
  r[1] = 0 ∧ r[2] = 0 ∧ r[3] = 0 ∧ (r[0] = codeOk ∨ ∃ e, r[0] = errCode e) ∧
    (r[0] ≠ codeOk → ∀ j : Fin 64, r[4 + j.val] = 0)

/-- Every response presented or taken has the shape of rule R72. -/
def ResponsesShaped (s : State) : Prop :=
  (∀ r, s.rsp = some r → ResponseShape r) ∧ ∀ r ∈ s.received, ResponseShape r

/-- At most one command is in flight: `CMD_READY` is 1 exactly while no response is presented (rule R71). -/
def OneInFlight (s : State) : Prop := s.cmdReady = true ↔ s.rsp = none

/-- The invariant of the machine: what holds at reset and what every step keeps. -/
def Inv (s : State) : Prop :=
  CacheSound s ∧ UnconfiguredAtReset s ∧ FaultRecorded s ∧ ResponsesShaped s ∧ OneInFlight s

/-- The register part of two states is the same but for the scratch matrices `X` and `O` (rules R10, R11). -/
def SameButScratch (s t : State) : Prop := { s with x := t.x, o := t.o } = t

/-- Two states differ at most in what the host must not learn without asking for keystream: `K`, `N`, `KSB` and the
scratch derived from them (rules R10 to R13, R16). -/
def SameButSecrets (s t : State) : Prop :=
  { s with x := t.x, o := t.o, k := t.k, n := t.n, ksb := t.ksb } = t

/-- Addition modulo 2^32 on numbers (rule R90). -/
def numAdd (a b : Nat) : Nat := (a + b) % 2 ^ 32

/-- Left rotation of a 32-bit number by `n` places, `0 < n < 32` (rule R92). -/
def numRotl (x n : Nat) : Nat := x * 2 ^ n % 2 ^ 32 + x / 2 ^ (32 - n)

/-- The twelve operations of rule R94 on numbers, in the source's order. -/
def numQuarterRound (a b c d : Nat) : Nat × Nat × Nat × Nat :=
  let a := numAdd a b
  let d := d ^^^ a
  let d := numRotl d 16
  let c := numAdd c d
  let b := b ^^^ c
  let b := numRotl b 12
  let a := numAdd a b
  let d := d ^^^ a
  let d := numRotl d 8
  let c := numAdd c d
  let b := b ^^^ c
  let b := numRotl b 7
  (a, b, c, d)

/-- Two frames have the same bytes wherever the format of the first one's opcode reads (rules R63, R68). -/
def AgreeWhereRead (f g : Frame) : Prop :=
  ∀ k : Fin 56, formatReads f[0] k.val = true → f[k] = g[k]

/-- The response frames a sequence of commands produces, in order. -/
def responsesOf : List Instr → State → List Response
  | [], _ => []
  | i :: rest, s =>
    match exec i s with
    | .next t => t.rsp.toList ++ responsesOf rest t
    | .fault _ => []
    | .refused _ => []

end Sys2Proof.Safety
end

