-- ==== Sys2Proof/Certificates/Slice0/Obligations.lean ====
section
/-!
DEFINITION. The statements for the provers. Each docstring names the rule or section of spec/ it formalises. A
statement about a next state gives the whole next state where the spec does, so its frame is part of it. The CORE
has no memory (rule R46), so no frame speaks of memory.
-/

open Sys2Proof Sys2Proof.Machine Sys2Proof.Safety

/-! ### Byte order (spec/20_memory.md) -/

/-- Rule R41. -/
def Obligations.LittleEndianSums : Prop :=
  (∀ b0 b1 b2 b3 : Byte, (le32 b0 b1 b2 b3).toNat =
    b0.toNat + 2 ^ 8 * b1.toNat + 2 ^ 16 * b2.toNat + 2 ^ 24 * b3.toNat) ∧
  (∀ b0 b1 b2 b3 b4 b5 b6 b7 : Byte, (le64 b0 b1 b2 b3 b4 b5 b6 b7).toNat =
    b0.toNat + 2 ^ 8 * b1.toNat + 2 ^ 16 * b2.toNat + 2 ^ 24 * b3.toNat
      + 2 ^ 32 * b4.toNat + 2 ^ 40 * b5.toNat + 2 ^ 48 * b6.toNat + 2 ^ 56 * b7.toNat) ∧
  le32 0x00 0x01 0x02 0x03 = 0x03020100 ∧ le32 0x00 0x00 0x00 0x4a = 0x4a000000

/-- Rule R42. -/
def Obligations.WordBytesAreInverse : Prop :=
  (∀ w : Word, bytesLe32 w =
    #v[w.extractLsb' 0 8, w.extractLsb' 8 8, w.extractLsb' 16 8, w.extractLsb' 24 8]) ∧
  (∀ w : Word, le32 (bytesLe32 w)[0] (bytesLe32 w)[1] (bytesLe32 w)[2] (bytesLe32 w)[3] = w) ∧
  (∀ b0 b1 b2 b3 : Byte, bytesLe32 (le32 b0 b1 b2 b3) = #v[b0, b1, b2, b3]) ∧
  bytesLe32 0xe4e7f110 = #v[0x10, 0xf1, 0xe7, 0xe4]

/-! ### Encoding (spec/30_encoding.md) -/

/-- Round trip, over every command and every operand value (spec/30_encoding.md sections 3 and 4). -/
def Obligations.DecodeOfEncode : Prop := ∀ i : Instr, decode (encode i) = .ok i

/-- The other direction: a frame that is canonical and decodes is the encoding of what it decodes to. -/
def Obligations.EncodeOfDecode : Prop :=
  ∀ (f : Frame) (i : Instr), canonicalFrame f = true → decode f = .ok i → encode i = f

/-- Rules R66 and R70: `OP` alone selects the command, whose operands are those of rule R64 (spelled out here in
frame bytes), and every frame is one of seven commands or illegal. -/
def Obligations.OpcodeSelectsCommand : Prop :=
  ∀ f : Frame, decode f =
    if f[0] = 0x01 then
      .ok (.qr (le32 f[4] f[5] f[6] f[7]) (le32 f[8] f[9] f[10] f[11])
        (le32 f[12] f[13] f[14] f[15]) (le32 f[16] f[17] f[18] f[19]))
    else if f[0] = 0x02 then
      .ok (.block (Vector.ofFn fun i : Fin 32 => f[4 + i.val]) (Vector.ofFn fun i : Fin 12 => f[36 + i.val])
        (le32 f[48] f[49] f[50] f[51]))
    else if f[0] = 0x10 then
      .ok (.new f[1] f[2] (Vector.ofFn fun i : Fin 32 => f[4 + i.val])
        (Vector.ofFn fun i : Fin 12 => f[36 + i.val])
        (le64 f[48] f[49] f[50] f[51] f[52] f[53] f[54] f[55]))
    else if f[0] = 0x11 then .ok (.seek (le64 f[48] f[49] f[50] f[51] f[52] f[53] f[54] f[55]))
    else if f[0] = 0x12 then .ok (.xorb f[3])
    else if f[0] = 0x13 then .ok .nextb
    else if f[0] = 0x20 then .ok .rdst
    else .error (.illegalCommand f[0])

/-- Frames of spec/95_test_vectors.md, written out byte by byte, decode to the commands they stand for (V5 for QR, P2
for SEEK, V51 for XORB, V53 for NEXTB, V56 for RDST). -/
def Obligations.SpecFramesDecode : Prop :=
  decode (padBytes 56 [0x01, 0, 0, 0, 0x11, 0x11, 0x11, 0x11, 0x04, 0x03, 0x02, 0x01,
    0x43, 0x6f, 0x8d, 0x9b, 0x67, 0x45, 0x23, 0x01]) =
      .ok (.qr 0x11111111 0x01020304 0x9b8d6f43 0x01234567) ∧
  decode (padBytes 56 (0x11 :: List.replicate 47 0 ++ [0x2a])) = .ok (.seek 42) ∧
  decode (padBytes 56 [0x12, 0, 0, 0x4c]) = .ok (.xorb 0x4c) ∧
  decode (padBytes 56 [0x13]) = .ok .nextb ∧
  decode (padBytes 56 [0x20]) = .ok .rdst

/-- Rule R68: bytes a format does not read change neither the result, the response nor any state; the canonical
encoding sets them to 0; the decoder's choice of command looks at `OP` only. -/
def Obligations.UnreadBytesIgnored : Prop :=
  (∀ f g : Frame, AgreeWhereRead f g → decode f = decode g ∧ ∀ s, serveFrame f s = serveFrame g s) ∧
  (∀ i : Instr, ∀ k : Fin 56, formatReads (opcode i) k.val = false → (encode i)[k] = 0) ∧
  (∀ f g : Frame, f[0] = g[0] → ∀ i j, decode f = .ok i → decode g = .ok j → opcode i = opcode j)

/-- Rule R67: the 249 other values of `OP` fault with IllegalCommand and change nothing but `FAULT` and `LAST_ERR`;
the all-zeros and the all-ones frames are among them. -/
def Obligations.IllegalOpcodesFault : Prop :=
  (∀ (f : Frame) (s : State),
    (f[0].toNat = 0x00 ∨ (0x03 ≤ f[0].toNat ∧ f[0].toNat ≤ 0x0F) ∨ (0x14 ≤ f[0].toNat ∧ f[0].toNat ≤ 0x1F) ∨
      0x21 ≤ f[0].toNat) →
    serveFrame f s =
      .next { s with fault := true, lastErr := 0x03, rsp := some (responseOf 0x03 []) }) ∧
  (∀ f : Frame, f[0] ∈ [0x01#8, 0x02#8, 0x10#8, 0x11#8, 0x12#8, 0x13#8, 0x20#8] →
    ∃ i, decode f = .ok i ∧ opcode i = f[0]) ∧
  ((List.range 256).filter fun op =>
    op = 0x00 ∨ (0x03 ≤ op ∧ op ≤ 0x0F) ∨ (0x14 ≤ op ∧ op ≤ 0x1F) ∨ 0x21 ≤ op).length = 249 ∧
  (Vector.replicate 56 0x00#8)[0].toNat = 0x00 ∧ 0x21 ≤ (Vector.replicate 56 0xFF#8)[0].toNat

/-- Rule R72: 68 bytes; `CODE`, three zero bytes, the payload and zeros to the end; and every frame, executed in any
state, is answered so, with a code of rule R170 and after a fault an all-zero payload. -/
def Obligations.ResponseFrameLayout : Prop :=
  (∀ (code : Byte) (payload : List Byte), payload.length ≤ 64 →
    (responseOf code payload)[0] = code ∧
    (responseOf code payload)[1] = 0 ∧ (responseOf code payload)[2] = 0 ∧ (responseOf code payload)[3] = 0 ∧
    ∀ i : Fin 64, (responseOf code payload)[4 + i.val] =
      if h : i.val < payload.length then payload[i.val] else 0) ∧
  (∀ (f : Frame) (s : State), ∃ (t : State) (r : Response), serveFrame f s = .next t ∧ t.rsp = some r ∧
    r[0].toNat ≤ 4 ∧ r[1] = 0 ∧ r[2] = 0 ∧ r[3] = 0 ∧ (r[0] ≠ 0x00 → ∀ j : Fin 64, r[4 + j.val] = 0))

/-- A well-formed assembler line emits frames that decode to the commands it stands for: one command for each of the
seven mnemonics, an operand value being the number written, a full-size byte string being the field and a short one of
NEW padded with zeros; the macros' sequences (spec/30_encoding.md section 8). Which lines are well formed is
deduced, log entry 9. -/
def Obligations.AssembledLinesDecode : Prop :=
  (∀ line : Line, (assembleLine line).map decode = (lineCommands line).map .ok) ∧
  (∀ (key nonce : List Byte) (idx : NumExpr) (klen nlen : Option NumExpr),
    (Line.new key nonce idx klen nlen).wellFormed = true →
    ∃ (kl nl : Byte) (kb : KeyBytes) (nb : NonceBytes) (ix : Index),
      lineCommands (.new key nonce idx klen nlen) = [.new kl nl kb nb ix] ∧
      (ix.toNat : Int) = idx.value ∧
      (kl.toNat : Int) = (klen.getD (.lit 32)).value ∧ (nl.toNat : Int) = (nlen.getD (.lit 12)).value ∧
      (∀ i : Fin 32, kb[i] = if h : i.val < key.length then key[i.val] else 0) ∧
      (∀ i : Fin 12, nb[i] = if h : i.val < nonce.length then nonce[i.val] else 0)) ∧
  (∀ a b c d : NumExpr, (Line.qr a b c d).wellFormed = true →
    ∃ wa wb wc wd : Word, lineCommands (.qr a b c d) = [.qr wa wb wc wd] ∧
      (wa.toNat : Int) = a.value ∧ (wb.toNat : Int) = b.value ∧ (wc.toNat : Int) = c.value ∧
      (wd.toNat : Int) = d.value) ∧
  (∀ (key nonce : List Byte) (ctr : NumExpr), (Line.block key nonce ctr).wellFormed = true →
    ∃ (kb : KeyBytes) (nb : NonceBytes) (w : Word), lineCommands (.block key nonce ctr) = [.block kb nb w] ∧
      kb.toList = key ∧ nb.toList = nonce ∧ (w.toNat : Int) = ctr.value) ∧
  (∀ idx : NumExpr, (Line.seek idx).wellFormed = true →
    ∃ ix : Index, lineCommands (.seek idx) = [.seek ix] ∧ (ix.toNat : Int) = idx.value) ∧
  (∀ data : NumExpr, (Line.xorb data).wellFormed = true →
    ∃ b : Byte, lineCommands (.xorb data) = [.xorb b] ∧ (b.toNat : Int) = data.value) ∧
  lineCommands .nextb = [.nextb] ∧ lineCommands .rdst = [.rdst] ∧
  (∀ (width : Nat) (e : NumExpr), e.fits width = true → ((numField width e).toNat : Int) = e.value) ∧
  (∀ bytes : List Byte, lineCommands (.apply bytes) = bytes.map .xorb) ∧
  (∀ count : Nat, lineCommands (.keystream count) = List.replicate count .nextb)

/-- Source text assembles to canonical frames that decode, and the spec's own lines assemble to the spec's own frames: the
SEEK of P2 with a comment, the NEW of P5, an APPLY as in P1, KEYSTREAM; operands out of range are refused
(spec/30_encoding.md section 8, spec/95_test_vectors.md section 3). What the text may look like where the spec does not
say is the model's choice, log entry 9. -/
def Obligations.SourceTextAssembles : Prop :=
  (∀ (texts : List (List Char)) (frames : List Frame), assembleText texts = some frames →
    ∀ f ∈ frames, canonicalFrame f = true ∧ ∃ i, decode f = .ok i ∧ encode i = f) ∧
  assembleText ["SEEK  42 ; back".toList] = some [padBytes 56 (0x11 :: List.replicate 47 0 ++ [0x2a])] ∧
  assembleText ["NEW   key=000102030405060708090a0b0c0d0e0f101112131415161718191a1b1c1d1e1f, nonce=000000000000004a00000000, idx=2^38-1".toList] =
    some [padBytes 56 ([0x10, 0x20, 0x0c, 0x00] ++ (List.range 32).map (BitVec.ofNat 8) ++
      [0, 0, 0, 0, 0, 0, 0, 0x4a, 0, 0, 0, 0, 0xff, 0xff, 0xff, 0xff, 0x3f])] ∧
  assembleText ["APPLY \"Lad\"".toList, "KEYSTREAM 2".toList, "RDST".toList] =
    some [padBytes 56 [0x12, 0, 0, 0x4c], padBytes 56 [0x12, 0, 0, 0x61], padBytes 56 [0x12, 0, 0, 0x64],
      padBytes 56 [0x13], padBytes 56 [0x13], padBytes 56 [0x20]] ∧
  assembleText ["XORB 256".toList] = none ∧ assembleText ["SEEK 2^64".toList] = none

/-! ### The quarter-round mixer (spec/40_quarter_round.md) -/

/-- Rule R90. -/
def Obligations.AdditionWraps : Prop :=
  (∀ a b : Word, (add32 a b).toNat = (a.toNat + b.toNat) % 2 ^ 32) ∧
  (∀ a b : Word, add32 a b = (a.zeroExtend 33 + b.zeroExtend 33).extractLsb' 0 32) ∧
  (∀ a b : Word, add32 a b = add32 b a) ∧
  (∀ a b c : Word, add32 (add32 a b) c = add32 a (add32 b c)) ∧
  (∀ x : Word, add32 x 0 = x) ∧
  (∀ a b : Word, (add32 a b).toInt = (a.toInt + b.toInt).bmod (2 ^ 32)) ∧
  add32 0xFFFFFFFF 1 = 0 ∧ add32 0x80000000 0x80000000 = 0 ∧ add32 0x11111111 0x01020304 = 0x12131415

/-- Rule R91. -/
def Obligations.XorIsBitwise : Prop :=
  (∀ (a b : Word) (i : Nat), i < 32 → (xor32 a b).getLsbD i = (a.getLsbD i ^^ b.getLsbD i)) ∧
  (∀ (a b : Byte) (i : Nat), i < 8 → (xor8 a b).getLsbD i = (a.getLsbD i ^^ b.getLsbD i)) ∧
  (∀ x : Word, xor32 x x = 0) ∧ (∀ x : Word, xor32 x 0 = x) ∧
  (∀ x k : Word, xor32 (xor32 x k) k = x) ∧
  xor32 0x01234567 0x12131415 = 0x13305172

/-- Rule R92: the formula, on numbers and on bits, the corner cases and the examples; and the mixer rotates by 16, 12,
8 and 7 only. -/
def Obligations.RotationMovesEveryBit : Prop :=
  (∀ (x : Word) (n : Nat), 0 < n → n < 32 →
    (rotl32 x n).toNat = (x.toNat * 2 ^ n % 2 ^ 32) ||| (x.toNat / 2 ^ (32 - n)) ∧
    ∀ i, i < 32 → (rotl32 x n).getLsbD ((i + n) % 32) = x.getLsbD i) ∧
  (∀ n : Nat, 0 < n → n < 32 → rotl32 0 n = 0 ∧ rotl32 0xFFFFFFFF n = 0xFFFFFFFF) ∧
  rotl32 0x80000000 1 = 0x00000001 ∧
  rotl32 0x12345678 16 = 0x56781234 ∧ rotl32 0x12345678 12 = 0x45678123 ∧
  rotl32 0x12345678 8 = 0x34567812 ∧ rotl32 0x12345678 7 = 0x1A2B3C09 ∧
  (∀ (p q s : Word) (n : Nat), (arx p q s n).2 = rotl32 (xor32 s (add32 p q)) n) ∧
  (∀ a b c d : Word, quarterRound ⟨a, b, c, d⟩ =
    let l1 := arx a b d 16
    let l2 := arx c l1.2 b 12
    let l3 := arx l1.1 l2.2 l1.2 8
    let l4 := arx l2.1 l3.2 l2.2 7
    ⟨l3.1, l4.2, l4.1, l3.2⟩)

/-- Rules R93 and R94: each line, and the twelve operations in the source's order, restated on numbers; the corner
cases; the worked example with every line's values. -/
def Obligations.QuarterRoundFollowsTheSource : Prop :=
  (∀ (p q s : Word) (n : Nat), n ∈ [16, 12, 8, 7] →
    (arx p q s n).1.toNat = numAdd p.toNat q.toNat ∧
    (arx p q s n).2.toNat = numRotl (s.toNat ^^^ numAdd p.toNat q.toNat) n) ∧
  (∀ n : Nat, n ∈ [16, 12, 8, 7] → arx 0 0 0 n = (0, 0)) ∧
  (∀ a b c d : Word,
    ((quarterRound ⟨a, b, c, d⟩).a.toNat, (quarterRound ⟨a, b, c, d⟩).b.toNat,
      (quarterRound ⟨a, b, c, d⟩).c.toNat, (quarterRound ⟨a, b, c, d⟩).d.toNat) =
      numQuarterRound a.toNat b.toNat c.toNat d.toNat) ∧
  quarterRound ⟨0, 0, 0, 0⟩ = ⟨0, 0, 0, 0⟩ ∧
  quarterRound ⟨0xFFFFFFFF, 0xFFFFFFFF, 0xFFFFFFFF, 0xFFFFFFFF⟩ = ⟨0xF0000FFD, 0x88790878, 0x0110FDEF, 0x010FFDF0⟩ ∧
  quarterRound ⟨0xFFFFFFFF, 1, 0, 0⟩ = ⟨0x00001000, 0x08080000, 0x00100000, 0x00100000⟩ ∧
  arx 0x11111111 0x01020304 0x01234567 16 = (0x12131415, 0x51721330) ∧
  arx 0x9B8D6F43 0x51721330 0x01020304 12 = (0xECFF8273, 0xD8177EDF) ∧
  arx 0x12131415 0xD8177EDF 0x51721330 8 = (0xEA2A92F4, 0x5881C4BB) ∧
  arx 0xECFF8273 0x5881C4BB 0xD8177EDF 7 = (0x4581472E, 0xCB1CF8CE) ∧
  xor32 0x01234567 0x12131415 = 0x13305172 ∧ xor32 0x01020304 0xECFF8273 = 0xEDFD8177 ∧
  xor32 0x51721330 0xEA2A92F4 = 0xBB5881C4 ∧ xor32 0xD8177EDF 0x4581472E = 0x9D9639F1 ∧
  quarterRound ⟨0x11111111, 0x01020304, 0x9B8D6F43, 0x01234567⟩ =
    ⟨0xEA2A92F4, 0xCB1CF8CE, 0x4581472E, 0x5881C4BB⟩

/-- The quarter-round loses nothing: it is a bijection on four words (spec/40_quarter_round.md section 3). -/
def Obligations.QuarterRoundIsBijective : Prop := Function.Bijective quarterRound

/-- Rule R95: QR answers the four words in every state, changes no register and never faults. -/
def Obligations.QrAnswersTheQuarterRound : Prop :=
  (∀ (a b c d : Word) (s : State),
    exec (.qr a b c d) s =
      .next { s with rsp := some (responseOf 0x00
        ((bytesLe32 (quarterRound ⟨a, b, c, d⟩).a).toList ++ (bytesLe32 (quarterRound ⟨a, b, c, d⟩).b).toList ++
         (bytesLe32 (quarterRound ⟨a, b, c, d⟩).c).toList ++ (bytesLe32 (quarterRound ⟨a, b, c, d⟩).d).toList)) }) ∧
  (∀ f : Frame, f[0] = 0x01 →
    decode f = .ok (.qr (le32 f[4] f[5] f[6] f[7]) (le32 f[8] f[9] f[10] f[11])
      (le32 f[12] f[13] f[14] f[15]) (le32 f[16] f[17] f[18] f[19]))) ∧
  (∀ s : State,
    serveFrame (padBytes 56 [0x01, 0, 0, 0, 0x11, 0x11, 0x11, 0x11, 0x04, 0x03, 0x02, 0x01,
      0x43, 0x6f, 0x8d, 0x9b, 0x67, 0x45, 0x23, 0x01]) s =
    .next { s with rsp := some (padBytes 68 [0, 0, 0, 0, 0xF4, 0x92, 0x2A, 0xEA, 0xCE, 0xF8, 0x1C, 0xCB,
      0x2E, 0x47, 0x81, 0x45, 0xBB, 0xC4, 0x81, 0x58]) })

/-! ### The block permutation engine (spec/41_block_transform.md) -/

/-- Rules R110 and R112: the constants are the ASCII bytes of "expand 32-byte k", the key words fill rows 1 and 2
ascending, row 3 is the counter and the nonce words; and the example matrix. -/
def Obligations.InitialMatrixLayout : Prop :=
  (const0 = le32 0x65 0x78 0x70 0x61 ∧ const1 = le32 0x6E 0x64 0x20 0x33 ∧
    const2 = le32 0x32 0x2D 0x62 0x79 ∧ const3 = le32 0x74 0x65 0x20 0x6B) ∧
  (∀ (key : KeyBytes) (nonce : NonceBytes) (ctr : Word),
    let x := initMatrix (keyWords key) (nonceWords nonce) ctr
    x[0] = 0x61707865 ∧ x[1] = 0x3320646E ∧ x[2] = 0x79622D32 ∧ x[3] = 0x6B206574 ∧
    (∀ i : Fin 8, x[4 + i.val] =
      le32 key[4 * i.val] key[4 * i.val + 1] key[4 * i.val + 2] key[4 * i.val + 3]) ∧
    x[12] = ctr ∧
    (∀ i : Fin 3, x[13 + i.val] =
      le32 nonce[4 * i.val] nonce[4 * i.val + 1] nonce[4 * i.val + 2] nonce[4 * i.val + 3])) ∧
  initMatrix (keyWords (Vector.ofFn fun i : Fin 32 => BitVec.ofNat 8 i.val))
      (nonceWords #v[0, 0, 0, 0, 0, 0, 0, 0x4a, 0, 0, 0, 0]) 1 =
    #v[0x61707865, 0x3320646e, 0x79622d32, 0x6b206574, 0x03020100, 0x07060504, 0x0b0a0908, 0x0f0e0d0c,
       0x13121110, 0x17161514, 0x1b1a1918, 0x1f1e1d1c, 0x00000001, 0x00000000, 0x4a000000, 0x00000000]

/-- Rule R114: the four words of the tuple get the quarter-round of what they held, the other twelve keep their
values, and every tuple of the schedule has one index in each row. -/
def Obligations.QrAtTouchesItsTuple : Prop :=
  (∀ (t : Tuple) (x : Matrix), [t.i, t.j, t.k, t.l].Nodup →
    (qrAt t x)[t.i] = (quarterRound ⟨x[t.i], x[t.j], x[t.k], x[t.l]⟩).a ∧
    (qrAt t x)[t.j] = (quarterRound ⟨x[t.i], x[t.j], x[t.k], x[t.l]⟩).b ∧
    (qrAt t x)[t.k] = (quarterRound ⟨x[t.i], x[t.j], x[t.k], x[t.l]⟩).c ∧
    (qrAt t x)[t.l] = (quarterRound ⟨x[t.i], x[t.j], x[t.k], x[t.l]⟩).d ∧
    ∀ m : Fin 16, m ∉ [t.i, t.j, t.k, t.l] → (qrAt t x)[m] = x[m]) ∧
  (∀ lane : Fin 4, ∀ t ∈ [columnTuple lane, diagonalTuple lane],
    t.i.val / 4 = 0 ∧ t.j.val / 4 = 1 ∧ t.k.val / 4 = 2 ∧ t.l.val / 4 = 3)

/-- Within a column round and within a diagonal round the four quarter-rounds may run in any order
(spec/41_block_transform.md section 2, spec/93_implementation_defined.md I8). -/
def Obligations.LanesRunInAnyOrder : Prop :=
  ∀ (lanes : List (Fin 4)) (x : Matrix), lanes.Perm [0, 1, 2, 3] →
    runLanes columnTuple lanes x = columnRound x ∧ runLanes diagonalTuple lanes x = diagonalRound x

/-- The mixing of ten double-rounds is a bijection on matrices (spec/41_block_transform.md section 3). -/
def Obligations.RoundsAreBijective : Prop := Function.Bijective rounds

/-- Rules R54 and R119: byte `j` of the block is byte `j mod 4` of word `j div 4`, least significant first. -/
def Obligations.SerialiserByteOrder : Prop :=
  (∀ (y : Matrix) (j : Fin 64),
    (serialise y)[j] = (y[j.val / 4]).extractLsb' (8 * (j.val % 4)) 8 ∧
    (serialise y)[j].toNat = y[j.val / 4].toNat / 2 ^ (8 * (j.val % 4)) % 2 ^ 8) ∧
  (∀ (y : Matrix) (i : Fin 16) (j : Fin 4), (serialise y)[4 * i.val + j.val] = (bytesLe32 y[i])[j]) ∧
  (∀ y : Matrix, y[0] = 0xF3514F22 →
    (serialise y)[0] = 0x22 ∧ (serialise y)[1] = 0x4F ∧ (serialise y)[2] = 0x51 ∧ (serialise y)[3] = 0xF3)

/-- The sequencer's 80 steps under the 7-bit counter compute the block function: after `8r` steps `X` has had `r`
double-rounds, `O` is the initial matrix and `STEP` is `8r`; the tuples are those of the closed forms
(spec/41_block_transform.md section 4). -/
def Obligations.SequencerComputesTheBlock : Prop :=
  (∀ q : StepCount, q.toNat < 80 →
    let lane := q.toNat % 4
    stepTuple q =
      if q.toNat / 4 % 2 = 0 then
        ⟨Fin.ofNat 16 lane, Fin.ofNat 16 (4 + lane), Fin.ofNat 16 (8 + lane), Fin.ofNat 16 (12 + lane)⟩
      else
        ⟨Fin.ofNat 16 lane, Fin.ofNat 16 (4 + (lane + 1) % 4), Fin.ofNat 16 (8 + (lane + 2) % 4),
          Fin.ofNat 16 (12 + (lane + 3) % 4)⟩) ∧
  (∀ (x : Matrix) (r : Nat), r ≤ 10 →
    Engine.ticks (8 * r) (Engine.start x) = ⟨doubleRounds r x, x, BitVec.ofNat 7 (8 * r)⟩) ∧
  (∀ (k : KeyWords) (n : NonceWords) (ctr : Word), Engine.run (initMatrix k n ctr) = blockOf k n ctr)

/-- Rule R122: BLOCK answers the block of its own operands in every state, writes only the scratch `X` and `O` (whatever
it leaves there), never faults; and the known vector of rule R121. -/
def Obligations.BlockAnswersTheTransform : Prop :=
  (∀ (key : KeyBytes) (nonce : NonceBytes) (ctr : Word) (s : State), ∃ x o : Matrix,
    exec (.block key nonce ctr) s =
      .next { s with
        x := x
        o := o
        rsp := some (responseOf 0x00 (blockOf (keyWords key) (nonceWords nonce) ctr).toList) }) ∧
  (∀ f : Frame, f[0] = 0x02 →
    decode f = .ok (.block (Vector.ofFn fun i : Fin 32 => f[4 + i.val])
      (Vector.ofFn fun i : Fin 12 => f[36 + i.val]) (le32 f[48] f[49] f[50] f[51]))) ∧
  blockOf (keyWords (Vector.ofFn fun i : Fin 32 => BitVec.ofNat 8 i.val))
      (nonceWords #v[0, 0, 0, 0, 0, 0, 0, 0x4a, 0, 0, 0, 0]) 1 =
    #v[0x22, 0x4f, 0x51, 0xf3, 0x40, 0x1b, 0xd9, 0xe1, 0x2f, 0xde, 0x27, 0x6f, 0xb8, 0x63, 0x1d, 0xed,
       0x8c, 0x13, 0x1f, 0x82, 0x3d, 0x2c, 0x06, 0xe2, 0x7e, 0x4f, 0xca, 0xec, 0x9e, 0xf3, 0xcf, 0x78,
       0x8a, 0x3b, 0x0a, 0xa3, 0x72, 0x60, 0x0a, 0x92, 0xb5, 0x79, 0x74, 0xcd, 0xed, 0x2b, 0x93, 0x34,
       0x79, 0x4c, 0xba, 0x40, 0xc6, 0x3e, 0x34, 0xcd, 0xea, 0x21, 0x2c, 0x4c, 0xf0, 0x7d, 0x41, 0xb7]

/-- `X` and `O` left by earlier commands influence nothing: from two states that differ only there, every command
answers states that differ at most there (spec/10_state.md section 2). -/
def Obligations.ScratchInfluencesNothing : Prop :=
  ∀ (i : Instr) (s t : State), SameButScratch s t →
    ∃ s' t', exec i s = .next s' ∧ exec i t = .next t' ∧ SameButScratch s' t'

/-- QR and BLOCK between two keystream bytes do not change what the second returns, nor any state but the scratch
(spec/70_reset_and_hazards.md section 3). -/
def Obligations.FunctionUnitsDoNotDisturb : Prop :=
  ∀ (i : Instr) (data : Byte) (s u v w : State),
    (opcode i = 0x01 ∨ opcode i = 0x02) →
    exec i s = .next u → exec (.xorb data) u = .next v → exec (.xorb data) s = .next w →
    SameButScratch v w

/-! ### The keystream generator (spec/42_keystream_cursor.md) -/

/-- Rules R43 and R130: the map from an index to the cursor, its range, its inverse direction, and the corner
cases. -/
def Obligations.PositionMapsTheIndex : Prop :=
  (∀ (idx : Index) (s : State),
    position idx s = { s with ctr := idx.extractLsb' 6 32, off := idx.extractLsb' 0 6 } ∧
    (position idx s).ctr.toNat = idx.toNat / 64 % 2 ^ 32 ∧
    (position idx s).off.toNat = idx.toNat % 64 ∧
    cursorIndex (position idx s) = idx.toNat % 2 ^ 38) ∧
  (∀ s : State, cursorIndex s = 64 * s.ctr.toNat + s.off.toNat ∧ cursorIndex s ≤ 2 ^ 38 - 1) ∧
  (∀ s : State,
    ((position 0 s).ctr = 0 ∧ (position 0 s).off = 0) ∧
    ((position 63 s).ctr = 0 ∧ (position 63 s).off = 63) ∧
    ((position 64 s).ctr = 1 ∧ (position 64 s).off = 0) ∧
    ((position 0x3FFFFFFFFF s).ctr = 0xFFFFFFFF ∧ (position 0x3FFFFFFFFF s).off = 63) ∧
    ((position 0x4000000000 s).ctr = 0 ∧ (position 0x4000000000 s).off = 0) ∧
    ((position 0xFFFFFFFFFFFFFFFF s).ctr = 0xFFFFFFFF ∧ (position 0xFFFFFFFFFFFFFFFF s).off = 63) ∧
    ((position 42 s).ctr = 0 ∧ (position 42 s).off = 42) ∧
    ((position 178 s).ctr = 2 ∧ (position 178 s).off = 50))

/-- Indices equal modulo 2^38 are the same command operand for SEEK and for NEW (spec/20_memory.md section 2). -/
def Obligations.IndicesAliasModulo38Bits : Prop :=
  ∀ (i j : Index) (s : State), i.toNat % 2 ^ 38 = j.toNat % 2 ^ 38 →
    exec (.seek i) s = exec (.seek j) s ∧
    ∀ (klen nlen : Byte) (key : KeyBytes) (nonce : NonceBytes),
      exec (.new klen nlen key nonce i) s = exec (.new klen nlen key nonce j) s

/-- The cache test and the fill: on a hit nothing changes; on a miss, whatever `OFF` is, the block of the current key,
nonce and counter is cached with its tag, and of the rest only the scratch is written, whatever it leaves there
(spec/42_keystream_cursor.md section 2). -/
def Obligations.FillGeneratesOnAMiss : Prop :=
  (∀ s : State, s.ksbValid = true → s.ksbTag = s.ctr → fill s = s) ∧
  (∀ s : State, (s.ksbValid = false ∨ s.ksbTag ≠ s.ctr) → ∃ x o : Matrix,
    fill s = { s with
      x := x, o := o,
      ksb := blockOf s.k s.n s.ctr, ksbTag := s.ctr, ksbValid := true })

/-- Rule R135: one byte forward; at offset 63 the counter increments, wrapping, and the cache is dropped; the index
moves by one modulo 2^38; and no command but NEW and SEEK, which set it, changes the counter anywhere else. -/
def Obligations.AdvanceMovesOneByte : Prop :=
  (∀ s : State, s.off = 63#6 →
    advance s = { s with off := 0, ctr := add32 s.ctr 1, ksbValid := false }) ∧
  (∀ s : State, s.off ≠ 63#6 → advance s = { s with off := s.off + 1 }) ∧
  (∀ s : State, cursorIndex (advance s) = (cursorIndex s + 1) % 2 ^ 38) ∧
  (∀ s : State, s.ctr = 0xFFFFFFFF → s.off = 63#6 → (advance s).ctr = 0 ∧ (advance s).off = 0) ∧
  (∀ (i : Instr) (s t : State), exec i s = .next t → t.ctr ≠ s.ctr →
    opcode i ∈ [0x10#8, 0x11#8] ∨
      (opcode i ∈ [0x12#8, 0x13#8] ∧ s.off = 63#6 ∧ t.ctr = add32 s.ctr 1 ∧ t.ksbValid = false))

/-! ### The command layer (spec/43_cipher_engine.md) -/

/-- Rule R150: NEW with the right lengths writes key, nonce and cursor, drops the cache and configures the engine, in
every state; with a wrong length it is a fault; issued twice it leaves the state of once; the key and nonce fields
are not inspected when a length check fails; and the example. -/
def Obligations.NewConstructsAnInstance : Prop :=
  (∀ (key : KeyBytes) (nonce : NonceBytes) (idx : Index) (s : State),
    exec (.new 32 12 key nonce idx) s =
      .next { s with
        k := Vector.ofFn fun i : Fin 8 =>
          le32 key[4 * i.val] key[4 * i.val + 1] key[4 * i.val + 2] key[4 * i.val + 3]
        n := Vector.ofFn fun i : Fin 3 =>
          le32 nonce[4 * i.val] nonce[4 * i.val + 1] nonce[4 * i.val + 2] nonce[4 * i.val + 3]
        ctr := idx.extractLsb' 6 32
        off := idx.extractLsb' 0 6
        ksbValid := false
        configured := true
        rsp := some (responseOf 0x00 []) }) ∧
  (∀ (klen nlen : Byte) (key : KeyBytes) (nonce : NonceBytes) (idx : Index) (s : State), klen ≠ 32 →
    exec (.new klen nlen key nonce idx) s =
      .next { s with fault := true, lastErr := 0x01, rsp := some (responseOf 0x01 []) }) ∧
  (∀ (nlen : Byte) (key : KeyBytes) (nonce : NonceBytes) (idx : Index) (s : State), nlen ≠ 12 →
    exec (.new 32 nlen key nonce idx) s =
      .next { s with fault := true, lastErr := 0x02, rsp := some (responseOf 0x02 []) }) ∧
  (∀ (key : KeyBytes) (nonce : NonceBytes) (idx : Index) (s t : State),
    exec (.new 32 12 key nonce idx) s = .next t → exec (.new 32 12 key nonce idx) t = .next t) ∧
  (∀ f : Frame, f[0] = 0x10 →
    decode f = .ok (.new f[1] f[2] (Vector.ofFn fun i : Fin 32 => f[4 + i.val])
      (Vector.ofFn fun i : Fin 12 => f[36 + i.val])
      (le64 f[48] f[49] f[50] f[51] f[52] f[53] f[54] f[55]))) ∧
  (∀ s : State, ∃ t,
    exec (.new 32 12 (Vector.ofFn fun i : Fin 32 => BitVec.ofNat 8 i.val)
      #v[0, 0, 0, 0, 0, 0, 0, 0x4a, 0, 0, 0, 0] 64) s = .next t ∧
    t.k = #v[0x03020100, 0x07060504, 0x0B0A0908, 0x0F0E0D0C, 0x13121110, 0x17161514, 0x1B1A1918, 0x1F1E1D1C] ∧
    t.n = #v[0x00000000, 0x4A000000, 0x00000000] ∧ t.ctr = 1 ∧ t.off = 0 ∧ t.ksbValid = false ∧
    t.configured = true)

/-- Rules R171 and R172: every wrong key length faults alike with code 1, every wrong nonce length (the key length
being right) with code 2, and the key length is checked first. -/
def Obligations.NewRefusesWrongLengths : Prop :=
  ∀ (klen nlen : Byte) (key : KeyBytes) (nonce : NonceBytes) (idx : Index) (s : State),
    (klen.toNat ≠ 32 →
      exec (.new klen nlen key nonce idx) s =
        .next { s with fault := true, lastErr := 0x01, rsp := some (responseOf 0x01 []) }) ∧
    (klen.toNat = 32 → nlen.toNat ≠ 12 →
      exec (.new klen nlen key nonce idx) s =
        .next { s with fault := true, lastErr := 0x02, rsp := some (responseOf 0x02 []) })

/-- Rule R151: SEEK sets the cursor, keeps the cache exactly if it is valid and holds the new block, and runs no
transform; the corner cases; the example. -/
def Obligations.SeekRepositions : Prop :=
  (∀ (idx : Index) (s : State), s.configured = true →
    exec (.seek idx) s =
      .next { s with
        ctr := idx.extractLsb' 6 32
        off := idx.extractLsb' 0 6
        ksbValid := s.ksbValid && (s.ksbTag == idx.extractLsb' 6 32)
        rsp := some (responseOf 0x00 []) }) ∧
  (∀ (idx : Index) (s : State), s.configured = false →
    exec (.seek idx) s =
      .next { s with fault := true, lastErr := 0x04, rsp := some (responseOf 0x04 []) }) ∧
  (∀ f : Frame, f[0] = 0x11 →
    decode f = .ok (.seek (le64 f[48] f[49] f[50] f[51] f[52] f[53] f[54] f[55]))) ∧
  (∀ (idx : Index) (s : State), CacheSound s → s.ksbValid = true → idx.extractLsb' 6 32 = s.ksbTag →
    exec (.seek idx) s = .next { s with off := idx.extractLsb' 0 6, rsp := some (responseOf 0x00 []) }) ∧
  (∀ (idx : Index) (s : State), CacheSound s → s.configured = true → idx.toNat % 2 ^ 38 = cursorIndex s →
    exec (.seek idx) s = .next { s with rsp := some (responseOf 0x00 []) }) ∧
  (∀ (idx : Index) (m : Nat) (s : State),
    exec (.seek (idx + BitVec.ofNat 64 (2 ^ 38 * m))) s = exec (.seek idx) s) ∧
  (∀ s : State, s.configured = true → s.ctr = 1 → s.off = 2 → s.ksbValid = true → s.ksbTag = 1 →
    exec (.seek 64) s = .next { s with off := 0, rsp := some (responseOf 0x00 []) } ∧
    exec (.seek 42) s = .next { s with ctr := 0, off := 42, ksbValid := false, rsp := some (responseOf 0x00 []) })

/-- Rule R152: XORB in every configured state: the byte at the cursor, from the cache on a hit and from a fresh block
on a miss, combined with the data, and everything else the command leaves, but for the scratch `X` and `O`, which a miss
writes (whatever it leaves there) and a hit does not; the fault where no instance exists; the
corner cases and the example. -/
def Obligations.XorbAppliesOneByte : Prop :=
  (∀ (data : Byte) (s : State), s.configured = true →
    let hit : Bool := s.ksbValid && (s.ksbTag == s.ctr)
    let block := if hit then s.ksb else blockOf s.k s.n s.ctr
    let last : Bool := s.off == 63#6
    ∃ x o : Matrix, (hit = true → x = s.x ∧ o = s.o) ∧ exec (.xorb data) s =
      .next { s with
        x := x
        o := o
        ksb := block
        ksbTag := s.ctr
        ksbValid := !last
        ctr := if last then s.ctr + 1 else s.ctr
        off := s.off + 1
        rsp := some (responseOf 0x00 [data ^^^ block[s.off.toNat]]) }) ∧
  (∀ (data : Byte) (s : State), s.configured = false →
    exec (.xorb data) s = .next { s with fault := true, lastErr := 0x04, rsp := some (responseOf 0x04 []) }) ∧
  (∀ f : Frame, f[0] = 0x12 → decode f = .ok (.xorb f[3])) ∧
  (∀ z : Byte, 0x00 ^^^ z = z ∧ 0xFF ^^^ z = ~~~z) ∧
  (∀ (data : Byte) (s : State), s.configured = true → s.ctr = 0xFFFFFFFF → s.off = 63#6 →
    ∃ t, exec (.xorb data) s = .next t ∧ t.ctr = 0 ∧ t.off = 0 ∧ t.fault = s.fault ∧ t.lastErr = s.lastErr) ∧
  (∀ s t : State,
    exec (.new 32 12 (Vector.ofFn fun i : Fin 32 => BitVec.ofNat 8 i.val)
      #v[0, 0, 0, 0, 0, 0, 0, 0x4a, 0, 0, 0, 0] 64) s = .next t →
    ∃ u, exec (.xorb 0x4C) t = .next u ∧ u.rsp = some (responseOf 0x00 [0x6E]) ∧ u.ksb[0] = 0x22 ∧
      u.ctr = 1 ∧ u.off = 1 ∧ u.ksbValid = true ∧ u.ksbTag = 1)

/-- Rule R153: NEXTB is XORB of zero in every state, and in a configured state it answers the byte at the cursor and
moves the cursor by one; the fault where no instance exists; and the example of three of them. -/
def Obligations.NextbReturnsTheByte : Prop :=
  (∀ s : State, exec .nextb s = exec (.xorb 0x00) s) ∧
  (∀ s : State, s.configured = true →
    exec .nextb s =
      .next { (nextByte s).2 with rsp := some (responseOf 0x00 [(nextByte s).1]) } ∧
    cursorIndex (nextByte s).2 = (cursorIndex s + 1) % 2 ^ 38) ∧
  (∀ s : State, s.configured = false →
    exec .nextb s = .next { s with fault := true, lastErr := 0x04, rsp := some (responseOf 0x04 []) }) ∧
  (∀ f : Frame, f[0] = 0x13 → decode f = .ok .nextb) ∧
  (∀ s t : State,
    exec (.new 32 12 (Vector.ofFn fun i : Fin 32 => BitVec.ofNat 8 i.val)
      #v[0, 0, 0, 0, 0, 0, 0, 0x4a, 0, 0, 0, 0] 64) s = .next t →
    responsesOf [.nextb, .nextb, .nextb] t =
      [responseOf 0x00 [0x22], responseOf 0x00 [0x4F], responseOf 0x00 [0x51]] ∧
    ∃ u, runCommands [.nextb, .nextb, .nextb] t = .next u ∧ u.ctr = 1 ∧ u.off = 3)

/-- While the cache is sound, the byte XORB and NEXTB use is the keystream byte at the cursor's index, hit or miss,
and the cache stays sound (spec/20_memory.md section 2, spec/42_keystream_cursor.md section 3). -/
def Obligations.BytesComeFromTheKeystream : Prop :=
  ∀ (data : Byte) (s : State), CacheSound s → s.configured = true →
    ∃ t u, exec (.xorb data) s = .next t ∧ exec .nextb s = .next u ∧
      t.rsp = some (responseOf 0x00 [data ^^^ keystreamByte s.k s.n (cursorIndex s)]) ∧
      u.rsp = some (responseOf 0x00 [keystreamByte s.k s.n (cursorIndex s)]) ∧
      CacheSound t ∧ CacheSound u

/-- Rule R156: twelve bytes, field by field, in every state; no register changes and no fault is recorded; the
examples. -/
def Obligations.RdstReportsTheStatus : Prop :=
  (∀ s : State, ∃ p : Vector Byte 12,
    exec .rdst s = .next { s with rsp := some (responseOf 0x00 p.toList) } ∧
    p[0].getLsbD 0 = s.configured ∧ p[0].getLsbD 1 = s.ksbValid ∧ p[0].getLsbD 2 = s.fault ∧
    (∀ i, 3 ≤ i → p[0].getLsbD i = false) ∧
    p[1] = s.lastErr ∧ p[2].toNat = s.off.toNat ∧ p[3] = 0 ∧
    le32 p[4] p[5] p[6] p[7] = s.ctr ∧ le32 p[8] p[9] p[10] p[11] = s.ksbTag) ∧
  (∀ f : Frame, f[0] = 0x20 → decode f = .ok .rdst) ∧
  exec .rdst State.reset = .next { State.reset with rsp := some (responseOf 0x00 (List.replicate 12 0)) } ∧
  (∀ s : State, s.configured = true → s.ksbValid = true → s.fault = false → s.lastErr = 0x00 → s.off = 1 →
    s.ctr = 1 → s.ksbTag = 1 →
    exec .rdst s = .next { s with rsp := some (responseOf 0x00 [0x03, 0, 1, 0, 1, 0, 0, 0, 1, 0, 0, 0]) })

/-- Rule R173: SEEK, XORB and NEXTB fault with NotConfigured while no instance exists; QR, BLOCK, NEW and RDST never
record that fault. -/
def Obligations.EngineCommandsNeedAnInstance : Prop :=
  (∀ (i : Instr) (s : State), s.configured = false → opcode i ∈ [0x11#8, 0x12#8, 0x13#8] →
    exec i s = .next { s with fault := true, lastErr := 0x04, rsp := some (responseOf 0x04 []) }) ∧
  (∀ (i : Instr) (s t : State), opcode i ∈ [0x01#8, 0x02#8, 0x10#8, 0x20#8] →
    exec i s = .next t → ∀ r, t.rsp = some r → r[0] ≠ 0x04)

/-- The source's boundary example: with block 0 cached, SEEK 0 and SEEK 63 keep it and the next byte hits; SEEK 64
discards it and the next byte generates block 1 (spec/42_keystream_cursor.md section 4). -/
def Obligations.SeekAcrossABlockBoundary : Prop :=
  ∀ s : State, s.configured = true → s.ksbValid = true → s.ksbTag = 0 →
    (∃ t, exec (.seek 0) s = .next t ∧ t.ctr = 0 ∧ t.off = 0 ∧ t.ksbValid = true ∧ cacheHit t = true ∧ fill t = t) ∧
    (∃ t, exec (.seek 63) s = .next t ∧ t.ctr = 0 ∧ t.off = 63 ∧ t.ksbValid = true ∧ cacheHit t = true ∧ fill t = t) ∧
    (∃ t, exec (.seek 64) s = .next t ∧ t.ctr = 1 ∧ t.off = 0 ∧ t.ksbValid = false ∧ cacheHit t = false ∧
      (fill t).ksb = blockOf s.k s.n 1 ∧ (fill t).ksbTag = 1)

/-- A repeated NEW or SEEK leaves the state of one (spec/20_memory.md section 4); RDST, QR and BLOCK too (that a repeated
BLOCK leaves the same scratch rests on log entry 5). -/
def Obligations.RepeatingIsIdempotent : Prop :=
  ∀ (i : Instr) (s t : State), opcode i ∉ [0x12#8, 0x13#8] → exec i s = .next t → exec i t = .next t

/-! ### Macros and stream properties (spec/43_cipher_engine.md sections 5 and 6) -/

/-- APPLY: from a state whose cache is sound and an instance exists, byte `i` of the buffer becomes itself xor the
keystream byte at index `s + i`, and the cursor moves by the buffer's length modulo 2^38. In every state an empty buffer
changes nothing; without an instance any other buffer stays as it is and the state changes by the fault NotConfigured
only. -/
def Obligations.ApplyXorsTheKeystream : Prop :=
  (∀ (buf : List Byte) (s : State), CacheSound s → s.configured = true →
    (applyMacro buf s).2 = xorKeystream s.k s.n (cursorIndex s) buf ∧
    cursorIndex (applyMacro buf s).1 = (cursorIndex s + buf.length) % 2 ^ 38 ∧
    (applyMacro buf s).1.k = s.k ∧ (applyMacro buf s).1.n = s.n ∧
    (applyMacro buf s).1.configured = true ∧ CacheSound (applyMacro buf s).1 ∧
    (applyMacro buf s).1.fault = s.fault ∧ (applyMacro buf s).1.lastErr = s.lastErr) ∧
  (∀ s : State, applyMacro [] s = (s, [])) ∧
  (∀ (buf : List Byte) (s : State), s.configured = false → buf ≠ [] →
    applyMacro buf s =
      ({ s with fault := true, lastErr := 0x04, rsp := some (responseOf 0x04 []) }, buf))

/-- KEYSTREAM is APPLY on a buffer of zeros: in every state the same state afterwards, and with an instance the same
bytes. Without an instance it stops at the first fault and has collected nothing, where APPLY leaves its buffer of zeros;
that the bytes of a KEYSTREAM that faults are those collected before the fault is the model's choice, log entry 14. -/
def Obligations.KeystreamIsApplyOnZeros : Prop :=
  (∀ (count : Nat) (s : State), s.configured = true →
    keystreamMacro count s = applyMacro (List.replicate count 0) s) ∧
  (∀ (count : Nat) (s : State), (keystreamMacro count s).1 = (applyMacro (List.replicate count 0) s).1) ∧
  (∀ s : State, keystreamMacro 0 s = (s, [])) ∧
  (∀ (count : Nat) (s : State), s.configured = false → 0 < count →
    keystreamMacro count s =
      ({ s with fault := true, lastErr := 0x04, rsp := some (responseOf 0x04 []) }, []))

/-- Self-inverse: on two fresh engines after the same NEW, applying APPLY to the result of APPLY gives the buffer
back, whatever key, nonce, index and buffer. -/
def Obligations.ApplyIsSelfInverse : Prop :=
  ∀ (key : KeyBytes) (nonce : NonceBytes) (idx : Index) (buf : List Byte) (s t : State),
    exec (.new 32 12 key nonce idx) s = .next t → (applyMacro (applyMacro buf t).2 t).2 = buf

/-- Seek-and-restore: after NEW at an index, APPLY, SEEK back and APPLY again give the same bytes, and the cursor,
the key and the nonce are what they were after the first APPLY. -/
def Obligations.SeekBackReencrypts : Prop :=
  ∀ (key : KeyBytes) (nonce : NonceBytes) (idx : Index) (buf : List Byte) (s t u : State),
    exec (.new 32 12 key nonce idx) s = .next t →
    exec (.seek idx) (applyMacro buf t).1 = .next u →
    (applyMacro buf u).2 = (applyMacro buf t).2 ∧
    cursorIndex (applyMacro buf u).1 = cursorIndex (applyMacro buf t).1 ∧
    (applyMacro buf u).1.k = (applyMacro buf t).1.k ∧ (applyMacro buf u).1.n = (applyMacro buf t).1.n

/-- Seek consistency: APPLY's result depends only on key, nonce, index and buffer, not on how the cursor got there
nor on what is cached. -/
def Obligations.ApplyDependsOnTheIndexOnly : Prop :=
  ∀ (buf : List Byte) (s t : State), CacheSound s → CacheSound t →
    s.configured = true → t.configured = true → s.k = t.k → s.n = t.n → cursorIndex s = cursorIndex t →
    (applyMacro buf s).2 = (applyMacro buf t).2

/-- After NEW at an index and any run of XORB and NEXTB commands, `CTR` and `OFF` are those of the index plus the
number of bytes, modulo 2^38, and no command faulted. -/
def Obligations.CursorAfterARunOfBytes : Prop :=
  ∀ (key : KeyBytes) (nonce : NonceBytes) (idx : Index) (cmds : List Instr) (s t : State),
    exec (.new 32 12 key nonce idx) s = .next t →
    (∀ i ∈ cmds, opcode i = 0x12 ∨ opcode i = 0x13) →
    ∃ u, runCommands cmds t = .next u ∧
      u.ctr.toNat = (idx.toNat + cmds.length) % 2 ^ 38 / 64 ∧
      u.off.toNat = (idx.toNat + cmds.length) % 64 ∧
      u.k = t.k ∧ u.n = t.n ∧ u.fault = t.fault ∧ u.lastErr = t.lastErr

/-! ### Faults (spec/60_exceptions.md) -/

/-- Rule R176: a faulting command, and only one, records its code and answers an all-zero payload; nothing else
changes. -/
def Obligations.FaultsArePrecise : Prop :=
  (∀ (e : ErrCode) (s : State),
    raise e s = { s with fault := true, lastErr := errCode e, rsp := some (responseOf (errCode e) []) }) ∧
  (∀ (f : Frame) (s t : State) (r : Response), serveFrame f s = .next t → t.rsp = some r → r[0] ≠ 0x00 →
    ∃ e, r = responseOf (errCode e) [] ∧
      t = { s with fault := true, lastErr := errCode e, rsp := some r }) ∧
  (∀ (f : Frame) (s t : State) (r : Response), serveFrame f s = .next t → t.rsp = some r → r[0] = 0x00 →
    t.fault = s.fault ∧ t.lastErr = s.lastErr)

/-- A faulting frame issued again in the state it left faults again with the same code and leaves that same state
(spec/60_exceptions.md section 5). -/
def Obligations.RepeatedFaultsRepeat : Prop :=
  ∀ (f : Frame) (s t : State) (r : Response),
    serveFrame f s = .next t → t.rsp = some r → r[0] ≠ 0x00 → serveFrame f t = .next t

/-- Only reset clears `CONFIGURED`, `FAULT` or a non-zero `LAST_ERR`: a step that ends with one of them cleared was a
step with `RST` applied (spec/10_state.md section 5, spec/70_reset_and_hazards.md section 1). That a step reads its pin
levels from `host` is the model's choice, log entry 3. -/
def Obligations.OnlyResetClears : Prop :=
  ∀ s t : State, step s = .next t →
    ((s.configured = true ∧ t.configured = false) ∨ (s.fault = true ∧ t.fault = false) ∨
      (s.lastErr ≠ 0x00 ∧ t.lastErr = 0x00)) →
    ∃ p rest, s.host = p :: rest ∧ p.rst = true

/-- `K` and `N` change only by a successful NEW or by reset, over every step (spec/10_state.md section 3). That a
command is accepted and executed in one step, with its pin levels from `host`, is the model's choice, log entries 1 and
3. -/
def Obligations.OnlyNewWritesTheKey : Prop :=
  ∀ s t : State, step s = .next t → (t.k ≠ s.k ∨ t.n ≠ s.n) →
    ∃ p rest, s.host = p :: rest ∧
      (p.rst = true ∨
        (s.cmdReady = true ∧ p.cmdValid = true ∧
          ∃ key nonce idx, decode p.cmdFrame = .ok (.new 32 12 key nonce idx) ∧
            t.k = keyWords key ∧ t.n = nonceWords nonce))

/-- No command but XORB and NEXTB lets the host learn anything of `K`, `N` or `KSB`: from two states that differ only
in them (and in the scratch), every other command answers the same response and leaves the same rest
(spec/10_state.md section 3, spec/60_exceptions.md section 6). -/
def Obligations.SecretsAreNotReadable : Prop :=
  ∀ (i : Instr) (s t : State), opcode i ∉ [0x12#8, 0x13#8] → SameButSecrets s t →
    ∃ s' t', exec i s = .next s' ∧ exec i t = .next t' ∧ s'.rsp = t'.rsp ∧ SameButSecrets s' t'

/-! ### Reset, ports and the step (spec/70_reset_and_hazards.md, spec/30_encoding.md) -/

/-- Rule R200's table: the value of every register after reset. -/
def Obligations.ResetValues : Prop :=
  (∀ i : Fin 16, State.reset.x[i] = 0 ∧ State.reset.o[i] = 0) ∧
  (∀ i : Fin 8, State.reset.k[i] = 0) ∧ (∀ i : Fin 3, State.reset.n[i] = 0) ∧
  State.reset.ctr = 0 ∧ State.reset.off = 0 ∧ (∀ i : Fin 64, State.reset.ksb[i] = 0) ∧
  State.reset.ksbValid = false ∧ State.reset.ksbTag = 0 ∧ State.reset.configured = false ∧
  State.reset.fault = false ∧ State.reset.lastErr = 0x00 ∧
  State.reset.cmdReady = true ∧ State.reset.rsp = none

/-- Reset has priority over any command, from every state and whatever the other pins; the command presented with it is
not accepted, a response not yet taken is abandoned, and every register is at its reset value
(spec/70_reset_and_hazards.md section 1). That `host` and `received` outlive the reset is the model's choice, log entry
3. -/
def Obligations.ResetWins : Prop :=
  ∀ (s : State) (p : PortIn) (rest : List PortIn), s.host = p :: rest → p.rst = true →
    step s = .next { State.reset with host := rest, received := s.received }

/-- A step at a free command port with a frame offered is the decoded command's exec, on the state in which the frame
has been accepted (`CMD_READY` 0, the offer consumed); a frame that decodes to no command faults there. That acceptance
and execution are one step is the model's choice, log entry 1. -/
def Obligations.StepRunsTheDecodedCommand : Prop :=
  ∀ (s : State) (p : PortIn) (rest : List PortIn),
    s.host = p :: rest → p.rst = false → p.cmdValid = true → s.cmdReady = true →
    (∀ i, decode p.cmdFrame = .ok i → step s = exec i { s with host := rest, cmdReady := false }) ∧
    (∀ why, decode p.cmdFrame = .error why →
      step s = .next { s with
        host := rest, cmdReady := false, fault := true, lastErr := 0x03, rsp := some (responseOf 0x03 []) })

/-- The handshake, over every step without `RST`: an accepted command leaves `CMD_READY` 0 and exactly one response
presented; where no command is accepted, because none is offered or because `CMD_READY` is 0, a presented response is
held until `RSP_READY` and then taken, which frees the command port, and with no response presented nothing changes; with
nothing driven the CORE is idle (spec/30_encoding.md section 1). How a step reads pins and logs a taken response is the
model's choice, log entries 1 to 3. -/
def Obligations.HandshakeIsKept : Prop :=
  (∀ (s t : State) (p : PortIn) (rest : List PortIn), s.host = p :: rest → p.rst = false →
    p.cmdValid = true → s.cmdReady = true → step s = .next t →
    t.cmdReady = false ∧ t.rsp.isSome = true ∧ t.host = rest ∧ t.received = s.received) ∧
  (∀ (s : State) (p : PortIn) (rest : List PortIn), s.host = p :: rest → p.rst = false →
    (p.cmdValid = false ∨ s.cmdReady = false) →
    p.rspReady = false → step s = .next { s with host := rest }) ∧
  (∀ (s : State) (p : PortIn) (rest : List PortIn) (r : Response), s.host = p :: rest → p.rst = false →
    (p.cmdValid = false ∨ s.cmdReady = false) → s.rsp = some r → p.rspReady = true →
    step s = .next { s with host := rest, rsp := none, cmdReady := true, received := s.received ++ [r] }) ∧
  (∀ (s : State) (p : PortIn) (rest : List PortIn), s.host = p :: rest → p.rst = false →
    (p.cmdValid = false ∨ s.cmdReady = false) → s.rsp = none → step s = .next { s with host := rest }) ∧
  (∀ s : State, s.host = [] → step s = .next s)

/-- Every command completes and every step is enabled: nothing ever stops the machine
(spec/70_reset_and_hazards.md section 5; log entry 6). -/
def Obligations.EveryStepCompletes : Prop :=
  (∀ (i : Instr) (s : State), ∃ t, exec i s = .next t ∧ t.rsp.isSome = true) ∧
  ∀ s : State, ∃ t, step s = .next t

/-- The invariant holds after reset. -/
def Obligations.InvHoldsAtReset : Prop := Inv State.reset

/-- The invariant is kept by every step, from every state that has it: the cache of a valid block is the block of the
current key, nonce and counter; no instance means reset values; the fault registers agree; responses have their
shape; at most one command is in flight. `received`, whose responses it speaks of, is the model's own, log entry 3. -/
def Obligations.EveryStepKeepsInv : Prop :=
  ∀ s t : State, Inv s → step s = .next t → Inv t

/-- Frames in, frames out: a host that offers the frames of a list of commands one after another and takes each
response makes the machine do exactly the sequence of commands, and receives their responses in order, one each. That
a command takes one step and its response another is the model's choice, log entries 1 and 3. -/
def Obligations.PortRunIsTheCommandSequence : Prop :=
  ∀ (cmds : List Instr) (s : State), s.cmdReady = true → s.rsp = none →
    s.host = driveFrames (cmds.map encode) →
    ∃ u v, runCommands cmds s = .next u ∧
      Sys2Proof.core.run (2 * cmds.length) s = .next v ∧
      v = { u with cmdReady := true, rsp := none, host := [], received := s.received ++ responsesOf cmds s } ∧
      (responsesOf cmds s).length = cmds.length

/-- What the scratch holds after a block transform: `X` the matrix after the final addition and `O` the initial one,
after BLOCK and after an XORB or NEXTB that misses, as after a fill that misses. That these values stay after the command
is the model's, log entry 5: the spec only says that the scratch is written (spec/41_block_transform.md sections 2 and 3,
spec/93_implementation_defined.md I7). -/
def Obligations.ScratchHoldsTheLastTransform : Prop :=
  (∀ (key : KeyBytes) (nonce : NonceBytes) (ctr : Word) (s : State),
    ∃ t, exec (.block key nonce ctr) s = .next t ∧
      t.o = initMatrix (keyWords key) (nonceWords nonce) ctr ∧ t.x = finalAdd (rounds t.o) t.o) ∧
  (∀ s : State, (s.ksbValid = false ∨ s.ksbTag ≠ s.ctr) →
    (fill s).o = initMatrix s.k s.n s.ctr ∧ (fill s).x = finalAdd (rounds (fill s).o) (fill s).o) ∧
  (∀ (i : Instr) (s : State), opcode i ∈ [0x12#8, 0x13#8] → s.configured = true →
    (s.ksbValid = false ∨ s.ksbTag ≠ s.ctr) →
    ∃ t, exec i s = .next t ∧ t.o = initMatrix s.k s.n s.ctr ∧ t.x = finalAdd (rounds t.o) t.o)
end

