-- ==== Sys2Proof/Laws/Bytes.lean ====
section
/-!
SUPPORT. What the byte-order operations compute, on numbers (spec/20_memory.md rules R41 to R43).
-/
namespace Sys2Proof.Machine

theorem le32_toNat (b0 b1 b2 b3 : Byte) : (le32 b0 b1 b2 b3).toNat =
    b0.toNat + 2 ^ 8 * b1.toNat + 2 ^ 16 * b2.toNat + 2 ^ 24 * b3.toNat := by
  have := b0.isLt; have := b1.isLt; have := b2.isLt; have := b3.isLt
  simp only [le32, BitVec.toNat_ofNat]
  omega

theorem le64_toNat (b0 b1 b2 b3 b4 b5 b6 b7 : Byte) : (le64 b0 b1 b2 b3 b4 b5 b6 b7).toNat =
    b0.toNat + 2 ^ 8 * b1.toNat + 2 ^ 16 * b2.toNat + 2 ^ 24 * b3.toNat
      + 2 ^ 32 * b4.toNat + 2 ^ 40 * b5.toNat + 2 ^ 48 * b6.toNat + 2 ^ 56 * b7.toNat := by
  have := b0.isLt; have := b1.isLt; have := b2.isLt; have := b3.isLt
  have := b4.isLt; have := b5.isLt; have := b6.isLt; have := b7.isLt
  simp only [le64, BitVec.toNat_ofNat]
  omega

theorem extractByte_toNat {w : Nat} (v : BitVec w) (start : Nat) :
    (v.extractLsb' start 8).toNat = v.toNat / 2 ^ start % 2 ^ 8 := by
  rw [BitVec.extractLsb'_toNat, Nat.shiftRight_eq_div_pow]

theorem idxCounter_toNat (idx : Index) : (idxCounter idx).toNat = idx.toNat / 64 % 2 ^ 32 := by
  simp only [idxCounter, BitVec.extractLsb'_toNat, Nat.shiftRight_eq_div_pow, Nat.reducePow]

theorem idxOffset_toNat (idx : Index) : (idxOffset idx).toNat = idx.toNat % 64 := by
  simp only [idxOffset, BitVec.extractLsb'_toNat, Nat.shiftRight_zero, Nat.reducePow]

theorem bytesLe32_getElem (w : Word) (j : Nat) (h : j < 4) : (bytesLe32 w)[j] = w.extractLsb' (8 * j) 8 := by
  interval_cases j <;> rfl

theorem le64_bytesLe64 (i : Index) :
    le64 (bytesLe64 i)[0] (bytesLe64 i)[1] (bytesLe64 i)[2] (bytesLe64 i)[3] (bytesLe64 i)[4] (bytesLe64 i)[5]
      (bytesLe64 i)[6] (bytesLe64 i)[7] = i := by
  apply BitVec.eq_of_toNat_eq
  rw [le64_toNat]
  simp only [bytesLe64, Vector.getElem_mk, List.getElem_toArray, List.getElem_cons_zero, List.getElem_cons_succ,
    extractByte_toNat]
  have := i.isLt
  omega

theorem bytesLe64_le64 (b0 b1 b2 b3 b4 b5 b6 b7 : Byte) :
    bytesLe64 (le64 b0 b1 b2 b3 b4 b5 b6 b7) = #v[b0, b1, b2, b3, b4, b5, b6, b7] := by
  have h := le64_toNat b0 b1 b2 b3 b4 b5 b6 b7
  have := b0.isLt; have := b1.isLt; have := b2.isLt; have := b3.isLt
  have := b4.isLt; have := b5.isLt; have := b6.isLt; have := b7.isLt
  simp only [bytesLe64]
  congr 1; congr 1
  simp only [List.cons.injEq, and_true]
  refine ⟨?_, ?_, ?_, ?_, ?_, ?_, ?_, ?_⟩ <;> apply BitVec.eq_of_toNat_eq <;> rw [extractByte_toNat, h] <;> omega

/-- Indices equal modulo 2^38 give the same cursor (rule R55). -/
theorem idxCounter_alias {i j : Index} (h : i.toNat % 2 ^ 38 = j.toNat % 2 ^ 38) : idxCounter i = idxCounter j := by
  apply BitVec.eq_of_toNat_eq
  rw [idxCounter_toNat, idxCounter_toNat]
  omega

theorem idxOffset_alias {i j : Index} (h : i.toNat % 2 ^ 38 = j.toNat % 2 ^ 38) : idxOffset i = idxOffset j := by
  apply BitVec.eq_of_toNat_eq
  rw [idxOffset_toNat, idxOffset_toNat]
  omega

end Sys2Proof.Machine
end

