-- ==== Sys2Proof/Laws/State.lean ====
section
/-!
SUPPORT. One lemma per field per update of the state, so that no proof unfolds a record update.
-/
namespace Sys2Proof.Machine

@[simp] theorem setScratch_x (x o : Matrix) (s : State) : (setScratch x o s).x = x := rfl
@[simp] theorem setScratch_o (x o : Matrix) (s : State) : (setScratch x o s).o = o := rfl
@[simp] theorem setScratch_k (x o : Matrix) (s : State) : (setScratch x o s).k = s.k := rfl
@[simp] theorem setScratch_n (x o : Matrix) (s : State) : (setScratch x o s).n = s.n := rfl
@[simp] theorem setScratch_ctr (x o : Matrix) (s : State) : (setScratch x o s).ctr = s.ctr := rfl
@[simp] theorem setScratch_off (x o : Matrix) (s : State) : (setScratch x o s).off = s.off := rfl
@[simp] theorem setScratch_ksb (x o : Matrix) (s : State) : (setScratch x o s).ksb = s.ksb := rfl
@[simp] theorem setScratch_ksbValid (x o : Matrix) (s : State) : (setScratch x o s).ksbValid = s.ksbValid := rfl
@[simp] theorem setScratch_ksbTag (x o : Matrix) (s : State) : (setScratch x o s).ksbTag = s.ksbTag := rfl
@[simp] theorem setScratch_configured (x o : Matrix) (s : State) : (setScratch x o s).configured = s.configured := rfl
@[simp] theorem setScratch_fault (x o : Matrix) (s : State) : (setScratch x o s).fault = s.fault := rfl
@[simp] theorem setScratch_lastErr (x o : Matrix) (s : State) : (setScratch x o s).lastErr = s.lastErr := rfl
@[simp] theorem setScratch_cmdReady (x o : Matrix) (s : State) : (setScratch x o s).cmdReady = s.cmdReady := rfl
@[simp] theorem setScratch_rsp (x o : Matrix) (s : State) : (setScratch x o s).rsp = s.rsp := rfl
@[simp] theorem setScratch_host (x o : Matrix) (s : State) : (setScratch x o s).host = s.host := rfl
@[simp] theorem setScratch_received (x o : Matrix) (s : State) : (setScratch x o s).received = s.received := rfl

@[simp] theorem setKeyNonce_x (k : KeyWords) (n : NonceWords) (s : State) : (setKeyNonce k n s).x = s.x := rfl
@[simp] theorem setKeyNonce_o (k : KeyWords) (n : NonceWords) (s : State) : (setKeyNonce k n s).o = s.o := rfl
@[simp] theorem setKeyNonce_k (k : KeyWords) (n : NonceWords) (s : State) : (setKeyNonce k n s).k = k := rfl
@[simp] theorem setKeyNonce_n (k : KeyWords) (n : NonceWords) (s : State) : (setKeyNonce k n s).n = n := rfl
@[simp] theorem setKeyNonce_ctr (k : KeyWords) (n : NonceWords) (s : State) : (setKeyNonce k n s).ctr = s.ctr := rfl
@[simp] theorem setKeyNonce_off (k : KeyWords) (n : NonceWords) (s : State) : (setKeyNonce k n s).off = s.off := rfl
@[simp] theorem setKeyNonce_ksb (k : KeyWords) (n : NonceWords) (s : State) : (setKeyNonce k n s).ksb = s.ksb := rfl
@[simp] theorem setKeyNonce_ksbValid (k : KeyWords) (n : NonceWords) (s : State) :
    (setKeyNonce k n s).ksbValid = s.ksbValid := rfl
@[simp] theorem setKeyNonce_ksbTag (k : KeyWords) (n : NonceWords) (s : State) :
    (setKeyNonce k n s).ksbTag = s.ksbTag := rfl
@[simp] theorem setKeyNonce_configured (k : KeyWords) (n : NonceWords) (s : State) :
    (setKeyNonce k n s).configured = s.configured := rfl
@[simp] theorem setKeyNonce_fault (k : KeyWords) (n : NonceWords) (s : State) :
    (setKeyNonce k n s).fault = s.fault := rfl
@[simp] theorem setKeyNonce_lastErr (k : KeyWords) (n : NonceWords) (s : State) :
    (setKeyNonce k n s).lastErr = s.lastErr := rfl
@[simp] theorem setKeyNonce_cmdReady (k : KeyWords) (n : NonceWords) (s : State) :
    (setKeyNonce k n s).cmdReady = s.cmdReady := rfl
@[simp] theorem setKeyNonce_rsp (k : KeyWords) (n : NonceWords) (s : State) : (setKeyNonce k n s).rsp = s.rsp := rfl
@[simp] theorem setKeyNonce_host (k : KeyWords) (n : NonceWords) (s : State) : (setKeyNonce k n s).host = s.host := rfl
@[simp] theorem setKeyNonce_received (k : KeyWords) (n : NonceWords) (s : State) :
    (setKeyNonce k n s).received = s.received := rfl

@[simp] theorem setCursor_x (c : Word) (o : Offset) (s : State) : (setCursor c o s).x = s.x := rfl
@[simp] theorem setCursor_o (c : Word) (o : Offset) (s : State) : (setCursor c o s).o = s.o := rfl
@[simp] theorem setCursor_k (c : Word) (o : Offset) (s : State) : (setCursor c o s).k = s.k := rfl
@[simp] theorem setCursor_n (c : Word) (o : Offset) (s : State) : (setCursor c o s).n = s.n := rfl
@[simp] theorem setCursor_ctr (c : Word) (o : Offset) (s : State) : (setCursor c o s).ctr = c := rfl
@[simp] theorem setCursor_off (c : Word) (o : Offset) (s : State) : (setCursor c o s).off = o := rfl
@[simp] theorem setCursor_ksb (c : Word) (o : Offset) (s : State) : (setCursor c o s).ksb = s.ksb := rfl
@[simp] theorem setCursor_ksbValid (c : Word) (o : Offset) (s : State) : (setCursor c o s).ksbValid = s.ksbValid := rfl
@[simp] theorem setCursor_ksbTag (c : Word) (o : Offset) (s : State) : (setCursor c o s).ksbTag = s.ksbTag := rfl
@[simp] theorem setCursor_configured (c : Word) (o : Offset) (s : State) :
    (setCursor c o s).configured = s.configured := rfl
@[simp] theorem setCursor_fault (c : Word) (o : Offset) (s : State) : (setCursor c o s).fault = s.fault := rfl
@[simp] theorem setCursor_lastErr (c : Word) (o : Offset) (s : State) : (setCursor c o s).lastErr = s.lastErr := rfl
@[simp] theorem setCursor_cmdReady (c : Word) (o : Offset) (s : State) : (setCursor c o s).cmdReady = s.cmdReady := rfl
@[simp] theorem setCursor_rsp (c : Word) (o : Offset) (s : State) : (setCursor c o s).rsp = s.rsp := rfl
@[simp] theorem setCursor_host (c : Word) (o : Offset) (s : State) : (setCursor c o s).host = s.host := rfl
@[simp] theorem setCursor_received (c : Word) (o : Offset) (s : State) : (setCursor c o s).received = s.received := rfl

@[simp] theorem setCache_x (b : Block) (tag : Word) (s : State) : (setCache b tag s).x = s.x := rfl
@[simp] theorem setCache_o (b : Block) (tag : Word) (s : State) : (setCache b tag s).o = s.o := rfl
@[simp] theorem setCache_k (b : Block) (tag : Word) (s : State) : (setCache b tag s).k = s.k := rfl
@[simp] theorem setCache_n (b : Block) (tag : Word) (s : State) : (setCache b tag s).n = s.n := rfl
@[simp] theorem setCache_ctr (b : Block) (tag : Word) (s : State) : (setCache b tag s).ctr = s.ctr := rfl
@[simp] theorem setCache_off (b : Block) (tag : Word) (s : State) : (setCache b tag s).off = s.off := rfl
@[simp] theorem setCache_ksb (b : Block) (tag : Word) (s : State) : (setCache b tag s).ksb = b := rfl
@[simp] theorem setCache_ksbValid (b : Block) (tag : Word) (s : State) : (setCache b tag s).ksbValid = true := rfl
@[simp] theorem setCache_ksbTag (b : Block) (tag : Word) (s : State) : (setCache b tag s).ksbTag = tag := rfl
@[simp] theorem setCache_configured (b : Block) (tag : Word) (s : State) :
    (setCache b tag s).configured = s.configured := rfl
@[simp] theorem setCache_fault (b : Block) (tag : Word) (s : State) : (setCache b tag s).fault = s.fault := rfl
@[simp] theorem setCache_lastErr (b : Block) (tag : Word) (s : State) : (setCache b tag s).lastErr = s.lastErr := rfl
@[simp] theorem setCache_cmdReady (b : Block) (tag : Word) (s : State) :
    (setCache b tag s).cmdReady = s.cmdReady := rfl
@[simp] theorem setCache_rsp (b : Block) (tag : Word) (s : State) : (setCache b tag s).rsp = s.rsp := rfl
@[simp] theorem setCache_host (b : Block) (tag : Word) (s : State) : (setCache b tag s).host = s.host := rfl
@[simp] theorem setCache_received (b : Block) (tag : Word) (s : State) :
    (setCache b tag s).received = s.received := rfl

@[simp] theorem dropCache_x (s : State) : (dropCache s).x = s.x := rfl
@[simp] theorem dropCache_o (s : State) : (dropCache s).o = s.o := rfl
@[simp] theorem dropCache_k (s : State) : (dropCache s).k = s.k := rfl
@[simp] theorem dropCache_n (s : State) : (dropCache s).n = s.n := rfl
@[simp] theorem dropCache_ctr (s : State) : (dropCache s).ctr = s.ctr := rfl
@[simp] theorem dropCache_off (s : State) : (dropCache s).off = s.off := rfl
@[simp] theorem dropCache_ksb (s : State) : (dropCache s).ksb = s.ksb := rfl
@[simp] theorem dropCache_ksbValid (s : State) : (dropCache s).ksbValid = false := rfl
@[simp] theorem dropCache_ksbTag (s : State) : (dropCache s).ksbTag = s.ksbTag := rfl
@[simp] theorem dropCache_configured (s : State) : (dropCache s).configured = s.configured := rfl
@[simp] theorem dropCache_fault (s : State) : (dropCache s).fault = s.fault := rfl
@[simp] theorem dropCache_lastErr (s : State) : (dropCache s).lastErr = s.lastErr := rfl
@[simp] theorem dropCache_cmdReady (s : State) : (dropCache s).cmdReady = s.cmdReady := rfl
@[simp] theorem dropCache_rsp (s : State) : (dropCache s).rsp = s.rsp := rfl
@[simp] theorem dropCache_host (s : State) : (dropCache s).host = s.host := rfl
@[simp] theorem dropCache_received (s : State) : (dropCache s).received = s.received := rfl

@[simp] theorem setConfigured_x (s : State) : (setConfigured s).x = s.x := rfl
@[simp] theorem setConfigured_o (s : State) : (setConfigured s).o = s.o := rfl
@[simp] theorem setConfigured_k (s : State) : (setConfigured s).k = s.k := rfl
@[simp] theorem setConfigured_n (s : State) : (setConfigured s).n = s.n := rfl
@[simp] theorem setConfigured_ctr (s : State) : (setConfigured s).ctr = s.ctr := rfl
@[simp] theorem setConfigured_off (s : State) : (setConfigured s).off = s.off := rfl
@[simp] theorem setConfigured_ksb (s : State) : (setConfigured s).ksb = s.ksb := rfl
@[simp] theorem setConfigured_ksbValid (s : State) : (setConfigured s).ksbValid = s.ksbValid := rfl
@[simp] theorem setConfigured_ksbTag (s : State) : (setConfigured s).ksbTag = s.ksbTag := rfl
@[simp] theorem setConfigured_configured (s : State) : (setConfigured s).configured = true := rfl
@[simp] theorem setConfigured_fault (s : State) : (setConfigured s).fault = s.fault := rfl
@[simp] theorem setConfigured_lastErr (s : State) : (setConfigured s).lastErr = s.lastErr := rfl
@[simp] theorem setConfigured_cmdReady (s : State) : (setConfigured s).cmdReady = s.cmdReady := rfl
@[simp] theorem setConfigured_rsp (s : State) : (setConfigured s).rsp = s.rsp := rfl
@[simp] theorem setConfigured_host (s : State) : (setConfigured s).host = s.host := rfl
@[simp] theorem setConfigured_received (s : State) : (setConfigured s).received = s.received := rfl

@[simp] theorem recordFault_x (e : ErrCode) (s : State) : (recordFault e s).x = s.x := rfl
@[simp] theorem recordFault_o (e : ErrCode) (s : State) : (recordFault e s).o = s.o := rfl
@[simp] theorem recordFault_k (e : ErrCode) (s : State) : (recordFault e s).k = s.k := rfl
@[simp] theorem recordFault_n (e : ErrCode) (s : State) : (recordFault e s).n = s.n := rfl
@[simp] theorem recordFault_ctr (e : ErrCode) (s : State) : (recordFault e s).ctr = s.ctr := rfl
@[simp] theorem recordFault_off (e : ErrCode) (s : State) : (recordFault e s).off = s.off := rfl
@[simp] theorem recordFault_ksb (e : ErrCode) (s : State) : (recordFault e s).ksb = s.ksb := rfl
@[simp] theorem recordFault_ksbValid (e : ErrCode) (s : State) : (recordFault e s).ksbValid = s.ksbValid := rfl
@[simp] theorem recordFault_ksbTag (e : ErrCode) (s : State) : (recordFault e s).ksbTag = s.ksbTag := rfl
@[simp] theorem recordFault_configured (e : ErrCode) (s : State) : (recordFault e s).configured = s.configured := rfl
@[simp] theorem recordFault_fault (e : ErrCode) (s : State) : (recordFault e s).fault = true := rfl
@[simp] theorem recordFault_lastErr (e : ErrCode) (s : State) : (recordFault e s).lastErr = errCode e := rfl
@[simp] theorem recordFault_cmdReady (e : ErrCode) (s : State) : (recordFault e s).cmdReady = s.cmdReady := rfl
@[simp] theorem recordFault_rsp (e : ErrCode) (s : State) : (recordFault e s).rsp = s.rsp := rfl
@[simp] theorem recordFault_host (e : ErrCode) (s : State) : (recordFault e s).host = s.host := rfl
@[simp] theorem recordFault_received (e : ErrCode) (s : State) : (recordFault e s).received = s.received := rfl

@[simp] theorem respond_x (code : Byte) (payload : List Byte) (s : State) : (respond code payload s).x = s.x := rfl
@[simp] theorem respond_o (code : Byte) (payload : List Byte) (s : State) : (respond code payload s).o = s.o := rfl
@[simp] theorem respond_k (code : Byte) (payload : List Byte) (s : State) : (respond code payload s).k = s.k := rfl
@[simp] theorem respond_n (code : Byte) (payload : List Byte) (s : State) : (respond code payload s).n = s.n := rfl
@[simp] theorem respond_ctr (code : Byte) (payload : List Byte) (s : State) :
    (respond code payload s).ctr = s.ctr := rfl
@[simp] theorem respond_off (code : Byte) (payload : List Byte) (s : State) :
    (respond code payload s).off = s.off := rfl
@[simp] theorem respond_ksb (code : Byte) (payload : List Byte) (s : State) :
    (respond code payload s).ksb = s.ksb := rfl
@[simp] theorem respond_ksbValid (code : Byte) (payload : List Byte) (s : State) :
    (respond code payload s).ksbValid = s.ksbValid := rfl
@[simp] theorem respond_ksbTag (code : Byte) (payload : List Byte) (s : State) :
    (respond code payload s).ksbTag = s.ksbTag := rfl
@[simp] theorem respond_configured (code : Byte) (payload : List Byte) (s : State) :
    (respond code payload s).configured = s.configured := rfl
@[simp] theorem respond_fault (code : Byte) (payload : List Byte) (s : State) :
    (respond code payload s).fault = s.fault := rfl
@[simp] theorem respond_lastErr (code : Byte) (payload : List Byte) (s : State) :
    (respond code payload s).lastErr = s.lastErr := rfl
@[simp] theorem respond_cmdReady (code : Byte) (payload : List Byte) (s : State) :
    (respond code payload s).cmdReady = s.cmdReady := rfl
@[simp] theorem respond_rsp (code : Byte) (payload : List Byte) (s : State) :
    (respond code payload s).rsp = some (responseOf code payload) := rfl
@[simp] theorem respond_host (code : Byte) (payload : List Byte) (s : State) :
    (respond code payload s).host = s.host := rfl
@[simp] theorem respond_received (code : Byte) (payload : List Byte) (s : State) :
    (respond code payload s).received = s.received := rfl

@[simp] theorem setHost_x (rest : List PortIn) (s : State) : (setHost rest s).x = s.x := rfl
@[simp] theorem setHost_o (rest : List PortIn) (s : State) : (setHost rest s).o = s.o := rfl
@[simp] theorem setHost_k (rest : List PortIn) (s : State) : (setHost rest s).k = s.k := rfl
@[simp] theorem setHost_n (rest : List PortIn) (s : State) : (setHost rest s).n = s.n := rfl
@[simp] theorem setHost_ctr (rest : List PortIn) (s : State) : (setHost rest s).ctr = s.ctr := rfl
@[simp] theorem setHost_off (rest : List PortIn) (s : State) : (setHost rest s).off = s.off := rfl
@[simp] theorem setHost_ksb (rest : List PortIn) (s : State) : (setHost rest s).ksb = s.ksb := rfl
@[simp] theorem setHost_ksbValid (rest : List PortIn) (s : State) : (setHost rest s).ksbValid = s.ksbValid := rfl
@[simp] theorem setHost_ksbTag (rest : List PortIn) (s : State) : (setHost rest s).ksbTag = s.ksbTag := rfl
@[simp] theorem setHost_configured (rest : List PortIn) (s : State) : (setHost rest s).configured = s.configured := rfl
@[simp] theorem setHost_fault (rest : List PortIn) (s : State) : (setHost rest s).fault = s.fault := rfl
@[simp] theorem setHost_lastErr (rest : List PortIn) (s : State) : (setHost rest s).lastErr = s.lastErr := rfl
@[simp] theorem setHost_cmdReady (rest : List PortIn) (s : State) : (setHost rest s).cmdReady = s.cmdReady := rfl
@[simp] theorem setHost_rsp (rest : List PortIn) (s : State) : (setHost rest s).rsp = s.rsp := rfl
@[simp] theorem setHost_host (rest : List PortIn) (s : State) : (setHost rest s).host = rest := rfl
@[simp] theorem setHost_received (rest : List PortIn) (s : State) : (setHost rest s).received = s.received := rfl

@[simp] theorem acceptCmd_x (s : State) : (acceptCmd s).x = s.x := rfl
@[simp] theorem acceptCmd_o (s : State) : (acceptCmd s).o = s.o := rfl
@[simp] theorem acceptCmd_k (s : State) : (acceptCmd s).k = s.k := rfl
@[simp] theorem acceptCmd_n (s : State) : (acceptCmd s).n = s.n := rfl
@[simp] theorem acceptCmd_ctr (s : State) : (acceptCmd s).ctr = s.ctr := rfl
@[simp] theorem acceptCmd_off (s : State) : (acceptCmd s).off = s.off := rfl
@[simp] theorem acceptCmd_ksb (s : State) : (acceptCmd s).ksb = s.ksb := rfl
@[simp] theorem acceptCmd_ksbValid (s : State) : (acceptCmd s).ksbValid = s.ksbValid := rfl
@[simp] theorem acceptCmd_ksbTag (s : State) : (acceptCmd s).ksbTag = s.ksbTag := rfl
@[simp] theorem acceptCmd_configured (s : State) : (acceptCmd s).configured = s.configured := rfl
@[simp] theorem acceptCmd_fault (s : State) : (acceptCmd s).fault = s.fault := rfl
@[simp] theorem acceptCmd_lastErr (s : State) : (acceptCmd s).lastErr = s.lastErr := rfl
@[simp] theorem acceptCmd_cmdReady (s : State) : (acceptCmd s).cmdReady = false := rfl
@[simp] theorem acceptCmd_rsp (s : State) : (acceptCmd s).rsp = s.rsp := rfl
@[simp] theorem acceptCmd_host (s : State) : (acceptCmd s).host = s.host := rfl
@[simp] theorem acceptCmd_received (s : State) : (acceptCmd s).received = s.received := rfl

@[simp] theorem takeRsp_x (r : Response) (s : State) : (takeRsp r s).x = s.x := rfl
@[simp] theorem takeRsp_o (r : Response) (s : State) : (takeRsp r s).o = s.o := rfl
@[simp] theorem takeRsp_k (r : Response) (s : State) : (takeRsp r s).k = s.k := rfl
@[simp] theorem takeRsp_n (r : Response) (s : State) : (takeRsp r s).n = s.n := rfl
@[simp] theorem takeRsp_ctr (r : Response) (s : State) : (takeRsp r s).ctr = s.ctr := rfl
@[simp] theorem takeRsp_off (r : Response) (s : State) : (takeRsp r s).off = s.off := rfl
@[simp] theorem takeRsp_ksb (r : Response) (s : State) : (takeRsp r s).ksb = s.ksb := rfl
@[simp] theorem takeRsp_ksbValid (r : Response) (s : State) : (takeRsp r s).ksbValid = s.ksbValid := rfl
@[simp] theorem takeRsp_ksbTag (r : Response) (s : State) : (takeRsp r s).ksbTag = s.ksbTag := rfl
@[simp] theorem takeRsp_configured (r : Response) (s : State) : (takeRsp r s).configured = s.configured := rfl
@[simp] theorem takeRsp_fault (r : Response) (s : State) : (takeRsp r s).fault = s.fault := rfl
@[simp] theorem takeRsp_lastErr (r : Response) (s : State) : (takeRsp r s).lastErr = s.lastErr := rfl
@[simp] theorem takeRsp_cmdReady (r : Response) (s : State) : (takeRsp r s).cmdReady = true := rfl
@[simp] theorem takeRsp_rsp (r : Response) (s : State) : (takeRsp r s).rsp = none := rfl
@[simp] theorem takeRsp_host (r : Response) (s : State) : (takeRsp r s).host = s.host := rfl
@[simp] theorem takeRsp_received (r : Response) (s : State) : (takeRsp r s).received = s.received ++ [r] := rfl

@[simp] theorem resetCore_x (s : State) : (resetCore s).x = State.reset.x := rfl
@[simp] theorem resetCore_o (s : State) : (resetCore s).o = State.reset.o := rfl
@[simp] theorem resetCore_k (s : State) : (resetCore s).k = State.reset.k := rfl
@[simp] theorem resetCore_n (s : State) : (resetCore s).n = State.reset.n := rfl
@[simp] theorem resetCore_ctr (s : State) : (resetCore s).ctr = State.reset.ctr := rfl
@[simp] theorem resetCore_off (s : State) : (resetCore s).off = State.reset.off := rfl
@[simp] theorem resetCore_ksb (s : State) : (resetCore s).ksb = State.reset.ksb := rfl
@[simp] theorem resetCore_ksbValid (s : State) : (resetCore s).ksbValid = State.reset.ksbValid := rfl
@[simp] theorem resetCore_ksbTag (s : State) : (resetCore s).ksbTag = State.reset.ksbTag := rfl
@[simp] theorem resetCore_configured (s : State) : (resetCore s).configured = State.reset.configured := rfl
@[simp] theorem resetCore_fault (s : State) : (resetCore s).fault = State.reset.fault := rfl
@[simp] theorem resetCore_lastErr (s : State) : (resetCore s).lastErr = State.reset.lastErr := rfl
@[simp] theorem resetCore_cmdReady (s : State) : (resetCore s).cmdReady = State.reset.cmdReady := rfl
@[simp] theorem resetCore_rsp (s : State) : (resetCore s).rsp = State.reset.rsp := rfl
@[simp] theorem resetCore_host (s : State) : (resetCore s).host = s.host := rfl
@[simp] theorem resetCore_received (s : State) : (resetCore s).received = s.received := rfl

end Sys2Proof.Machine
end

