-- ==== Sys2Proof/Laws/Ops.lean ====
section
/-!
SUPPORT. One lemma for each shared operation that says everything it can do; proofs cite it and do not unfold the
operation.
-/
namespace Sys2Proof.Machine

theorem outcome_next_inj {s t : State} : (Host.Outcome.next s : Host.Outcome State Fault Refusal) = .next t ↔ s = t :=
  ⟨fun h => by injection h, fun h => by rw [h]⟩

/-- A fault changes `FAULT`, `LAST_ERR` and the response, nothing else (rule R176). -/
theorem raise_eq (e : ErrCode) (s : State) :
    raise e s = { s with fault := true, lastErr := errCode e, rsp := some (responseOf (errCode e) []) } := rfl

theorem responseOf_getElem (code : Byte) (payload : List Byte) (j : Nat) (h : j < 68) :
    (responseOf code payload)[j] =
      if j = 0 then code else if j < 4 then 0 else payload.getD (j - 4) 0 := by
  simp [responseOf]

@[simp] theorem responseOf_code (code : Byte) (payload : List Byte) : (responseOf code payload)[0] = code := by
  simp [responseOf_getElem]

/-- `PAYLOAD[0]` of a response with a non-empty payload. -/
@[simp] theorem responseOf_payload (code b : Byte) (rest : List Byte) : (responseOf code (b :: rest))[4] = b := by
  simp [responseOf_getElem]

theorem errCode_ne_ok (e : ErrCode) : errCode e ≠ codeOk := by cases e <;> decide

theorem cacheHit_iff (s : State) : cacheHit s = true ↔ s.ksbValid = true ∧ s.ksbTag = s.ctr := by
  simp [cacheHit]

theorem finalMatrix_eq (k : KeyWords) (n : NonceWords) (ctr : Word) :
    finalMatrix k n ctr = finalAdd (rounds (initMatrix k n ctr)) (initMatrix k n ctr) := by
  rw [finalMatrix]

theorem blockOf_eq (k : KeyWords) (n : NonceWords) (ctr : Word) :
    blockOf k n ctr = serialise (finalMatrix k n ctr) := by
  rw [blockOf]

/-- A block transform writes `X` and `O` and nothing else (rule R121). -/
theorem transform_eq (k : KeyWords) (n : NonceWords) (ctr : Word) (s : State) :
    transform k n ctr s = { s with x := finalMatrix k n ctr, o := initMatrix k n ctr } := rfl

/-- On a hit `fill` changes nothing (rule R133). -/
theorem fill_hit {s : State} (h : cacheHit s = true) : fill s = s := by simp [fill, h]

/-- On a miss `fill` caches the block of the current key, nonce and counter (rule R133). -/
theorem fill_miss {s : State} (h : cacheHit s = false) :
    fill s = { s with
      x := finalMatrix s.k s.n s.ctr, o := initMatrix s.k s.n s.ctr,
      ksb := blockOf s.k s.n s.ctr, ksbTag := s.ctr, ksbValid := true } := by
  simp only [fill, h, blockOf_eq]; rfl

/-- Everything `fill` leaves, hit or miss: the block at the cursor is cached, and only the cache and the scratch may
have changed. -/
theorem fill_eq (s : State) :
    fill s = { s with
      x := if cacheHit s then s.x else finalMatrix s.k s.n s.ctr
      o := if cacheHit s then s.o else initMatrix s.k s.n s.ctr
      ksb := if cacheHit s then s.ksb else blockOf s.k s.n s.ctr
      ksbTag := s.ctr
      ksbValid := true } := by
  cases h : cacheHit s
  · rw [fill_miss h]; rfl
  · obtain ⟨hv, ht⟩ := (cacheHit_iff s).mp h
    rw [fill_hit h]
    cases s; simp_all

/-- Everything `advance` does (rule R135). -/
theorem advance_eq (s : State) :
    advance s = { s with
      off := s.off + 1
      ctr := if s.off = 63#6 then add32 s.ctr 1 else s.ctr
      ksbValid := if s.off = 63#6 then false else s.ksbValid } := by
  by_cases h : s.off = 63#6
  · simp [advance, h, dropCache, setCursor]
  · rw [advance, if_neg h, if_neg h, if_neg h]; rfl

/-- Everything `next_byte` does: the byte, and the state it leaves (rule R136). -/
theorem nextByte_eq (s : State) :
    nextByte s =
      ((if cacheHit s then s.ksb else blockOf s.k s.n s.ctr)[s.off.toNat],
       { s with
          x := if cacheHit s then s.x else finalMatrix s.k s.n s.ctr
          o := if cacheHit s then s.o else initMatrix s.k s.n s.ctr
          ksb := if cacheHit s then s.ksb else blockOf s.k s.n s.ctr
          ksbTag := s.ctr
          off := s.off + 1
          ctr := if s.off = 63#6 then add32 s.ctr 1 else s.ctr
          ksbValid := if s.off = 63#6 then false else true }) := by
  simp only [nextByte, advance_eq, fill_eq, peek]

/-- Everything the discarding of a stale block does (rule R151). -/
theorem discardStale_eq (s : State) :
    discardStale s = { s with ksbValid := s.ksbValid && (s.ksbTag == s.ctr) } := by
  cases s with
  | mk x o k n ctr off ksb v tag _ _ _ _ _ _ _ =>
    cases v <;> by_cases h : tag = ctr <;> simp [discardStale, dropCache, h]

/-- What executing a frame answers: its command's meaning, or the fault IllegalCommand. -/
theorem serveFrame_ok {f : Frame} {i : Instr} (h : decode f = .ok i) (s : State) : serveFrame f s = exec i s := by
  simp [serveFrame, h]

theorem serveFrame_error {f : Frame} {why : DecodeReject} (h : decode f = .error why) (s : State) :
    serveFrame f s = .next (raise .illegalCommand s) := by
  simp [serveFrame, h]

/-- Everything a step of the port can do. -/
theorem portStep_next {p : PortIn} {s t : State} (h : portStep p s = .next t) :
    (p.rst = true ∧ t = resetCore s) ∨
    (p.rst = false ∧ p.cmdValid = true ∧ s.cmdReady = true ∧ serveFrame p.cmdFrame (acceptCmd s) = .next t) ∨
    (p.rst = false ∧ (p.cmdValid = false ∨ s.cmdReady = false) ∧
      ((∃ r, s.rsp = some r ∧ p.rspReady = true ∧ t = takeRsp r s) ∨ t = s)) := by
  cases hr : p.rst
  case true => simp [portStep, hr] at h; exact .inl ⟨rfl, h.symm⟩
  case false =>
    by_cases hc : p.cmdValid = true ∧ s.cmdReady = true
    · simp [portStep, hr, hc] at h; exact .inr (.inl ⟨rfl, hc.1, hc.2, h⟩)
    · have hc' : p.cmdValid = false ∨ s.cmdReady = false := by
        cases hv : p.cmdValid <;> cases hd : s.cmdReady <;> simp_all
      refine .inr (.inr ⟨rfl, hc', ?_⟩)
      simp only [portStep, hr, hc] at h
      cases hs : s.rsp with
      | none => simp [hs] at h; exact .inr h.symm
      | some r =>
        cases hp : p.rspReady <;> simp [hs, hp] at h
        · exact .inr h.symm
        · exact .inl ⟨r, rfl, rfl, h.symm⟩

/-- Everything a step of the machine can do: idle, or a step of the port under the host's next pin levels. -/
theorem step_next {s t : State} (h : step s = .next t) :
    (s.host = [] ∧ t = s) ∨ ∃ p rest, s.host = p :: rest ∧ portStep p (setHost rest s) = .next t := by
  cases hh : s.host with
  | nil => simp [step, pinStep, hh] at h; exact .inl ⟨rfl, h.symm⟩
  | cons p rest => simp [step, pinStep, hh] at h; exact .inr ⟨p, rest, rfl, h⟩

end Sys2Proof.Machine
end

