-- ==== Sys2Proof/Laws/Keystream.lean ====
section
/-!
SUPPORT. The keystream as a function of its index, and what one byte request does to the cursor, the cache and the
byte (spec/20_memory.md rules R43, R55, R56; spec/42_keystream_cursor.md rules R133 to R138).
-/
namespace Sys2Proof.Safety

open Sys2Proof.Machine

theorem cursorIndex_lt (s : State) : cursorIndex s < 2 ^ 38 := by
  have := s.ctr.isLt; have := s.off.isLt
  simp only [cursorIndex]
  omega

theorem cursorIndex_position (idx : Index) (s : State) : cursorIndex (position idx s) = idx.toNat % 2 ^ 38 := by
  simp only [cursorIndex, position, setCursor_ctr, setCursor_off, idxCounter_toNat, idxOffset_toNat]
  omega

/-- The keystream repeats after 2^38 bytes. -/
theorem keystreamByte_mod (k : KeyWords) (n : NonceWords) {i j : Nat} (h : i % 2 ^ 38 = j % 2 ^ 38) :
    keystreamByte k n i = keystreamByte k n j := by
  have e1 : BitVec.ofNat 32 (i / 64) = BitVec.ofNat 32 (j / 64) := by
    apply BitVec.eq_of_toNat_eq
    simp only [BitVec.toNat_ofNat]
    omega
  have e2 : i % 64 = j % 64 := by omega
  simp only [keystreamByte, e1, e2]

theorem xorKeystream_cons (k : KeyWords) (n : NonceWords) (i : Nat) (b : Byte) (buf : List Byte) :
    xorKeystream k n i (b :: buf) = (b ^^^ keystreamByte k n i) :: xorKeystream k n (i + 1) buf := by
  have e : ((fun j => keystreamByte k n (i + j)) ∘ Nat.succ) = fun j => keystreamByte k n (i + 1 + j) := by
    funext j
    exact congrArg (keystreamByte k n) (by omega)
  simp only [xorKeystream, keystreamBytes, List.length_cons, List.range_succ_eq_map, List.map_cons, List.map_map,
    List.zipWith_cons_cons, Nat.add_zero, e]

theorem xorKeystream_mod (k : KeyWords) (n : NonceWords) {i j : Nat} (buf : List Byte)
    (h : i % 2 ^ 38 = j % 2 ^ 38) : xorKeystream k n i buf = xorKeystream k n j buf := by
  have e : (fun a => keystreamByte k n (i + a)) = fun a => keystreamByte k n (j + a) := by
    funext a
    exact keystreamByte_mod _ _ (by omega)
  simp only [xorKeystream, keystreamBytes, e]

/-- A byte request leaves the key, the nonce, the flags of the command layer and the ports alone. -/
theorem nextByte_frame (s : State) :
    (nextByte s).2.k = s.k ∧ (nextByte s).2.n = s.n ∧ (nextByte s).2.configured = s.configured ∧
      (nextByte s).2.fault = s.fault ∧ (nextByte s).2.lastErr = s.lastErr ∧
      (nextByte s).2.cmdReady = s.cmdReady ∧ (nextByte s).2.rsp = s.rsp ∧ (nextByte s).2.host = s.host ∧
      (nextByte s).2.received = s.received := by
  rw [nextByte_eq]
  exact ⟨rfl, rfl, rfl, rfl, rfl, rfl, rfl, rfl, rfl⟩

/-- With a sound cache, hit and miss read the same block. -/
theorem block_at_cursor {s : State} (hc : CacheSound s) :
    (if cacheHit s then s.ksb else blockOf s.k s.n s.ctr) = blockOf s.k s.n s.ctr := by
  by_cases h : cacheHit s = true
  · rw [if_pos h]
    exact (hc ((cacheHit_iff s).mp h).1).2.2
  · rw [if_neg h]

/-- With a sound cache, the byte is the keystream byte at the cursor's index (rule R134). -/
theorem nextByte_byte {s : State} (hc : CacheSound s) : (nextByte s).1 = keystreamByte s.k s.n (cursorIndex s) := by
  rw [nextByte_eq]
  simp only [block_at_cursor hc, keystreamByte, cursorIndex]
  have hb := s.off.isLt
  have e1 : (64 * s.ctr.toNat + s.off.toNat) / 64 = s.ctr.toNat := by omega
  have e2 : (64 * s.ctr.toNat + s.off.toNat) % 64 = s.off.toNat := by omega
  simp only [e1, e2, BitVec.ofNat_toNat, BitVec.setWidth_eq]

/-- A byte request of an engine instance keeps the cache sound. -/
theorem nextByte_sound {s : State} (hc : CacheSound s) (h : s.configured = true) : CacheSound (nextByte s).2 := by
  rw [nextByte_eq]
  simp only [CacheSound, block_at_cursor hc]
  by_cases h63 : s.off = 63#6
  · simp [h63]
  · simp [h63, h]

/-- Discarding a stale block after the cursor has been set keeps the cache sound (rule R151). -/
theorem discardStale_sound {s : State} (idx : Index) (hc : CacheSound s) (h : s.configured = true) :
    CacheSound (discardStale (position idx s)) := by
  rw [discardStale_eq]
  intro hv
  simp only [position, setCursor_ksbValid, setCursor_ksbTag, setCursor_ctr, Bool.and_eq_true, beq_iff_eq] at hv
  obtain ⟨_, h2, h3⟩ := hc hv.1
  refine ⟨h, hv.2, ?_⟩
  show s.ksb = blockOf s.k s.n (idxCounter idx)
  rw [h3, ← h2, hv.2]

end Sys2Proof.Safety
end

