-- ==== Sys2Proof/Laws/Commands.lean ====
section
/-!
SUPPORT. Everything a command, an accepted frame and a step can do, said once (spec/60_exceptions.md rules R175, R176;
spec/30_encoding.md rule R71; spec/70_reset_and_hazards.md rule R201).
-/
namespace Sys2Proof.Safety

open Sys2Proof.Machine

/-- What a successful command keeps: the fault registers, the ports' other fields, an existing engine instance, the
soundness of the cache and the reset values of an engine that has no instance. -/
structure Keeps (s t : State) : Prop where
  fault : t.fault = s.fault
  lastErr : t.lastErr = s.lastErr
  cmdReady : t.cmdReady = s.cmdReady
  host : t.host = s.host
  received : t.received = s.received
  configured : s.configured = true → t.configured = true
  cache : CacheSound s → CacheSound t
  unconfigured : UnconfiguredAtReset s → UnconfiguredAtReset t

theorem keeps_nextByte {s : State} (h : s.configured = true) : Keeps s (nextByte s).2 := by
  obtain ⟨_, _, f3, f4, f5, f6, _, f8, f9⟩ := nextByte_frame s
  exact ⟨f4, f5, f6, f8, f9, fun _ => f3.trans h, fun hc => nextByte_sound hc h,
    fun _ hf => by rw [f3, h] at hf; simp at hf⟩

theorem keeps_discardStale (idx : Index) {s : State} (h : s.configured = true) :
    Keeps s (discardStale (position idx s)) := by
  refine ⟨?_, ?_, ?_, ?_, ?_, ?_, fun hc => discardStale_sound idx hc h, ?_⟩ <;> rw [discardStale_eq]
  · rfl
  · rfl
  · rfl
  · rfl
  · rfl
  · exact fun _ => h
  · intro _ hf
    simp [position, h] at hf

/-- Every command either faults, changing the two fault registers and the response only, or answers OK from a state
that keeps what `Keeps` lists. -/
theorem exec_cases (i : Instr) (s : State) :
    (∃ e, exec i s = .next (raise e s)) ∨
    (∃ t payload, exec i s = .next (respond codeOk payload t) ∧ Keeps s t) := by
  cases i with
  | qr a b c d => exact .inr ⟨s, _, rfl, rfl, rfl, rfl, rfl, rfl, id, id, id⟩
  | block k n c =>
    exact .inr ⟨transform (keyWords k) (nonceWords n) c s, _, rfl, rfl, rfl, rfl, rfl, rfl, id,
      fun h hv => h hv, fun h hv => h hv⟩
  | new kl nl k n ix =>
    simp only [exec, execNew]
    split
    · exact .inl ⟨_, rfl⟩
    split
    · exact .inl ⟨_, rfl⟩
    · exact .inr ⟨_, _, rfl, rfl, rfl, rfl, rfl, rfl, fun _ => rfl, fun _ h => by simp at h, fun _ h => by simp at h⟩
  | seek ix =>
    by_cases h : s.configured = false
    · simp only [exec, execSeek]
      rw [if_pos h]
      exact .inl ⟨_, rfl⟩
    · refine .inr ⟨_, [], ?_, keeps_discardStale ix (by simpa using h)⟩
      simp only [exec, execSeek]
      rw [if_neg h]
  | xorb d =>
    by_cases h : s.configured = false
    · simp only [exec, execXorb]
      rw [if_pos h]
      exact .inl ⟨_, rfl⟩
    · refine .inr ⟨_, [xor8 d (nextByte s).1], ?_, keeps_nextByte (by simpa using h)⟩
      simp only [exec, execXorb]
      rw [if_neg h]
  | nextb =>
    by_cases h : s.configured = false
    · simp only [exec, execNextb]
      rw [if_pos h]
      exact .inl ⟨_, rfl⟩
    · refine .inr ⟨_, [(nextByte s).1], ?_, keeps_nextByte (by simpa using h)⟩
      simp only [exec, execNextb]
      rw [if_neg h]
  | rdst => exact .inr ⟨s, _, rfl, rfl, rfl, rfl, rfl, rfl, id, id, id⟩

/-- The same for a frame, which faults as well where it decodes to no command. -/
theorem serveFrame_cases (f : Frame) (s : State) :
    (∃ e, serveFrame f s = .next (raise e s)) ∨
    (∃ t payload, serveFrame f s = .next (respond codeOk payload t) ∧ Keeps s t) := by
  cases h : decode f with
  | ok i => rw [serveFrame_ok h]; exact exec_cases i s
  | error e => rw [serveFrame_error h]; exact .inl ⟨_, rfl⟩

/-- Everything a step can do, by the host's next pin levels: nothing, reset, execute a frame, or give up a response. -/
theorem step_cases {s t : State} (h : step s = .next t) :
    t = s ∨ ∃ p rest, s.host = p :: rest ∧
      ((p.rst = true ∧ t = resetCore (setHost rest s)) ∨
       (p.rst = false ∧ p.cmdValid = true ∧ s.cmdReady = true ∧
          serveFrame p.cmdFrame (acceptCmd (setHost rest s)) = .next t) ∨
       (p.rst = false ∧ (p.cmdValid = false ∨ s.cmdReady = false) ∧
          ((∃ r, s.rsp = some r ∧ p.rspReady = true ∧ t = takeRsp r (setHost rest s)) ∨ t = setHost rest s))) := by
  rcases step_next h with ⟨_, h⟩ | ⟨p, rest, hh, hp⟩
  · exact .inl h
  · exact .inr ⟨p, rest, hh, portStep_next hp⟩

theorem responseShape_ok (payload : List Byte) : ResponseShape (responseOf codeOk payload) :=
  ⟨by simp [responseOf_getElem], by simp [responseOf_getElem], by simp [responseOf_getElem], .inl (by simp),
    fun h => by simp at h⟩

theorem responseShape_fault (e : ErrCode) : ResponseShape (responseOf (errCode e) []) := by
  refine ⟨by simp [responseOf_getElem], by simp [responseOf_getElem], by simp [responseOf_getElem],
    .inr ⟨e, by simp⟩, fun _ j => ?_⟩
  rw [responseOf_getElem, if_neg (by omega), if_neg (by omega)]
  simp

end Sys2Proof.Safety
end

