-- ==== Sys2Proof/Laws/Decode.lean ====
section
/-!
SUPPORT. What the decoder answers, one lemma per opcode, and the opcode of what it answers (spec/30_encoding.md rules
R66, R67).
-/
namespace Sys2Proof

open Sys2Proof.Machine

theorem decode_qr {f : Frame} (h : fieldOp f = 0x01#8) :
    decode f = .ok (.qr (fieldA f) (fieldB f) (fieldC f) (fieldD f)) := by
  simp [decode, h]

theorem decode_block {f : Frame} (h : fieldOp f = 0x02#8) :
    decode f = .ok (.block (fieldKey f) (fieldNonce f) (fieldCtr32 f)) := by
  simp [decode, h]

theorem decode_new {f : Frame} (h : fieldOp f = 0x10#8) :
    decode f = .ok (.new (fieldKlen f) (fieldNlen f) (fieldKey f) (fieldNonce f) (fieldIdx f)) := by
  simp [decode, h]

theorem decode_seek {f : Frame} (h : fieldOp f = 0x11#8) : decode f = .ok (.seek (fieldIdx f)) := by
  simp [decode, h]

theorem decode_xorb {f : Frame} (h : fieldOp f = 0x12#8) : decode f = .ok (.xorb (fieldData f)) := by
  simp [decode, h]

theorem decode_nextb {f : Frame} (h : fieldOp f = 0x13#8) : decode f = .ok .nextb := by
  simp [decode, h]

theorem decode_rdst {f : Frame} (h : fieldOp f = 0x20#8) : decode f = .ok .rdst := by
  simp [decode, h]

theorem decode_illegal {f : Frame}
    (h : fieldOp f ∉ [0x01#8, 0x02#8, 0x10#8, 0x11#8, 0x12#8, 0x13#8, 0x20#8]) :
    decode f = .error (.illegalCommand (fieldOp f)) := by
  simp only [List.mem_cons, List.not_mem_nil, or_false, not_or] at h
  obtain ⟨h1, h2, h3, h4, h5, h6, h7⟩ := h
  rw [decode, if_neg h1, if_neg h2, if_neg h3, if_neg h4, if_neg h5, if_neg h6, if_neg h7]

/-- A frame that decodes has its command's opcode in byte 0. -/
theorem opcode_of_decode {f : Frame} {i : Instr} (h : decode f = .ok i) : opcode i = fieldOp f := by
  simp only [decode] at h
  repeat' split at h
  all_goals first | (simp at h; done) | (injection h with h; subst h; simp_all [opcode])

end Sys2Proof
end

