-- ==== Sys2Proof/Laws/Encode.lean ====
section
/-!
SUPPORT. What the bytes of an encoded frame are, field by field (spec/30_encoding.md rules R61, R62).
-/
namespace Sys2Proof

open Sys2Proof.Machine

section Frame

variable (op klen nlen data : Byte) (area : Vector Byte 32) (nonce : Vector Byte 12) (tail : Vector Byte 8)

theorem frameOf_getElem (k : Nat) (h : k < 56) :
    (frameOf op klen nlen data area nonce tail)[k] =
      if k = 0 then op else if k = 1 then klen else if k = 2 then nlen else if k = 3 then data
      else if _ : k < 36 then area[k - 4]
      else if _ : k < 48 then nonce[k - 36]
      else tail[k - 48] := by
  simp only [frameOf, Vector.getElem_ofFn]

@[simp] theorem frameOf_op : (frameOf op klen nlen data area nonce tail)[0] = op := by simp [frameOf_getElem]
@[simp] theorem frameOf_klen : (frameOf op klen nlen data area nonce tail)[1] = klen := by simp [frameOf_getElem]
@[simp] theorem frameOf_nlen : (frameOf op klen nlen data area nonce tail)[2] = nlen := by simp [frameOf_getElem]
@[simp] theorem frameOf_data : (frameOf op klen nlen data area nonce tail)[3] = data := by simp [frameOf_getElem]

theorem frameOf_area (i : Nat) (h : i < 32) :
    (frameOf op klen nlen data area nonce tail)[4 + i] = area[i] := by
  rw [frameOf_getElem, if_neg (by omega), if_neg (by omega), if_neg (by omega), if_neg (by omega),
    dif_pos (by omega)]
  simp

theorem frameOf_nonce (i : Nat) (h : i < 12) :
    (frameOf op klen nlen data area nonce tail)[36 + i] = nonce[i] := by
  rw [frameOf_getElem, if_neg (by omega), if_neg (by omega), if_neg (by omega), if_neg (by omega),
    dif_neg (by omega), dif_pos (by omega)]
  simp

theorem frameOf_tail (i : Nat) (h : i < 8) :
    (frameOf op klen nlen data area nonce tail)[48 + i] = tail[i] := by
  rw [frameOf_getElem, if_neg (by omega), if_neg (by omega), if_neg (by omega), if_neg (by omega),
    dif_neg (by omega), dif_neg (by omega)]
  simp

theorem fieldKey_frameOf : fieldKey (frameOf op klen nlen data area nonce tail) = area := by
  apply Vector.ext
  intro i h
  simp only [fieldKey, Vector.getElem_ofFn]
  exact frameOf_area _ _ _ _ _ _ _ i h

theorem fieldNonce_frameOf : fieldNonce (frameOf op klen nlen data area nonce tail) = nonce := by
  apply Vector.ext
  intro i h
  simp only [fieldNonce, Vector.getElem_ofFn]
  exact frameOf_nonce _ _ _ _ _ _ _ i h

/-- A word field of the 32-byte area, by its position in the area. -/
theorem fieldA_frameOf :
    fieldA (frameOf op klen nlen data area nonce tail) = le32 area[0] area[1] area[2] area[3] := by
  rw [fieldA,
    show (frameOf op klen nlen data area nonce tail)[4] = area[0] from
      frameOf_area _ _ _ _ _ _ _ 0 (by omega),
    show (frameOf op klen nlen data area nonce tail)[5] = area[1] from
      frameOf_area _ _ _ _ _ _ _ 1 (by omega),
    show (frameOf op klen nlen data area nonce tail)[6] = area[2] from
      frameOf_area _ _ _ _ _ _ _ 2 (by omega),
    show (frameOf op klen nlen data area nonce tail)[7] = area[3] from
      frameOf_area _ _ _ _ _ _ _ 3 (by omega)]

theorem fieldB_frameOf :
    fieldB (frameOf op klen nlen data area nonce tail) = le32 area[4] area[5] area[6] area[7] := by
  rw [fieldB,
    show (frameOf op klen nlen data area nonce tail)[8] = area[4] from
      frameOf_area _ _ _ _ _ _ _ 4 (by omega),
    show (frameOf op klen nlen data area nonce tail)[9] = area[5] from
      frameOf_area _ _ _ _ _ _ _ 5 (by omega),
    show (frameOf op klen nlen data area nonce tail)[10] = area[6] from
      frameOf_area _ _ _ _ _ _ _ 6 (by omega),
    show (frameOf op klen nlen data area nonce tail)[11] = area[7] from
      frameOf_area _ _ _ _ _ _ _ 7 (by omega)]

theorem fieldC_frameOf :
    fieldC (frameOf op klen nlen data area nonce tail) = le32 area[8] area[9] area[10] area[11] := by
  rw [fieldC,
    show (frameOf op klen nlen data area nonce tail)[12] = area[8] from
      frameOf_area _ _ _ _ _ _ _ 8 (by omega),
    show (frameOf op klen nlen data area nonce tail)[13] = area[9] from
      frameOf_area _ _ _ _ _ _ _ 9 (by omega),
    show (frameOf op klen nlen data area nonce tail)[14] = area[10] from
      frameOf_area _ _ _ _ _ _ _ 10 (by omega),
    show (frameOf op klen nlen data area nonce tail)[15] = area[11] from
      frameOf_area _ _ _ _ _ _ _ 11 (by omega)]

theorem fieldD_frameOf :
    fieldD (frameOf op klen nlen data area nonce tail) = le32 area[12] area[13] area[14] area[15] := by
  rw [fieldD,
    show (frameOf op klen nlen data area nonce tail)[16] = area[12] from
      frameOf_area _ _ _ _ _ _ _ 12 (by omega),
    show (frameOf op klen nlen data area nonce tail)[17] = area[13] from
      frameOf_area _ _ _ _ _ _ _ 13 (by omega),
    show (frameOf op klen nlen data area nonce tail)[18] = area[14] from
      frameOf_area _ _ _ _ _ _ _ 14 (by omega),
    show (frameOf op klen nlen data area nonce tail)[19] = area[15] from
      frameOf_area _ _ _ _ _ _ _ 15 (by omega)]

theorem fieldCtr32_frameOf :
    fieldCtr32 (frameOf op klen nlen data area nonce tail) = le32 tail[0] tail[1] tail[2] tail[3] := by
  rw [fieldCtr32,
    show (frameOf op klen nlen data area nonce tail)[48] = tail[0] from
      frameOf_tail _ _ _ _ _ _ _ 0 (by omega),
    show (frameOf op klen nlen data area nonce tail)[49] = tail[1] from
      frameOf_tail _ _ _ _ _ _ _ 1 (by omega),
    show (frameOf op klen nlen data area nonce tail)[50] = tail[2] from
      frameOf_tail _ _ _ _ _ _ _ 2 (by omega),
    show (frameOf op klen nlen data area nonce tail)[51] = tail[3] from
      frameOf_tail _ _ _ _ _ _ _ 3 (by omega)]

theorem fieldIdx_frameOf :
    fieldIdx (frameOf op klen nlen data area nonce tail) =
      le64 tail[0] tail[1] tail[2] tail[3] tail[4] tail[5] tail[6] tail[7] := by
  rw [fieldIdx,
    show (frameOf op klen nlen data area nonce tail)[48] = tail[0] from
      frameOf_tail _ _ _ _ _ _ _ 0 (by omega),
    show (frameOf op klen nlen data area nonce tail)[49] = tail[1] from
      frameOf_tail _ _ _ _ _ _ _ 1 (by omega),
    show (frameOf op klen nlen data area nonce tail)[50] = tail[2] from
      frameOf_tail _ _ _ _ _ _ _ 2 (by omega),
    show (frameOf op klen nlen data area nonce tail)[51] = tail[3] from
      frameOf_tail _ _ _ _ _ _ _ 3 (by omega),
    show (frameOf op klen nlen data area nonce tail)[52] = tail[4] from
      frameOf_tail _ _ _ _ _ _ _ 4 (by omega),
    show (frameOf op klen nlen data area nonce tail)[53] = tail[5] from
      frameOf_tail _ _ _ _ _ _ _ 5 (by omega),
    show (frameOf op klen nlen data area nonce tail)[54] = tail[6] from
      frameOf_tail _ _ _ _ _ _ _ 6 (by omega),
    show (frameOf op klen nlen data area nonce tail)[55] = tail[7] from
      frameOf_tail _ _ _ _ _ _ _ 7 (by omega)]

end Frame

theorem qrArea_getElem (a b c d : Word) (k : Nat) (h : k < 32) :
    (qrArea a b c d)[k] =
      if _ : k < 4 then (bytesLe32 a)[k]
      else if _ : k < 8 then (bytesLe32 b)[k - 4]
      else if _ : k < 12 then (bytesLe32 c)[k - 8]
      else if _ : k < 16 then (bytesLe32 d)[k - 12]
      else 0 := by
  simp only [qrArea, Vector.getElem_ofFn]

theorem ctrTail_getElem (ctr : Word) (k : Nat) (h : k < 8) :
    (ctrTail ctr)[k] = if _ : k < 4 then (bytesLe32 ctr)[k] else 0 := by
  simp only [ctrTail, Vector.getElem_ofFn]

end Sys2Proof
end

