-- ==== Sys2Proof/Laws/Mixer.lean ====
section
/-!
SUPPORT. Reading the words and bytes the mixer and the block engine produce
(spec/40_quarter_round.md, spec/41_block_transform.md).
-/
namespace Sys2Proof.Machine

/-- Two matrices with the same sixteen words are equal. -/
theorem matrix_ext {x y : Matrix} (h : ∀ m : Fin 16, x[m] = y[m]) : x = y := by
  apply Vector.ext
  intro i hi
  exact h ⟨i, hi⟩

theorem rotl32_toNat (x : Word) (n : Nat) (_h : n < 32) :
    (rotl32 x n).toNat = (x.toNat * 2 ^ n % 2 ^ 32) ||| (x.toNat / 2 ^ (32 - n)) := by
  simp [rotl32, Nat.shiftLeft_eq, Nat.shiftRight_eq_div_pow]

/-- A word of the matrix after a quarter-round in place: the last of the four writes that hit it, else unchanged. -/
theorem qrAt_getElem (t : Tuple) (x : Matrix) (m : Fin 16) :
    (qrAt t x)[m] =
      if t.l = m then (quarterRound ⟨x[t.i], x[t.j], x[t.k], x[t.l]⟩).d
      else if t.k = m then (quarterRound ⟨x[t.i], x[t.j], x[t.k], x[t.l]⟩).c
      else if t.j = m then (quarterRound ⟨x[t.i], x[t.j], x[t.k], x[t.l]⟩).b
      else if t.i = m then (quarterRound ⟨x[t.i], x[t.j], x[t.k], x[t.l]⟩).a
      else x[m] := by
  simp only [qrAt, Fin.getElem_fin, Vector.getElem_set, Fin.val_inj]

/-- A double-round more is a double-round at the end. -/
theorem doubleRounds_succ (r : Nat) (x : Matrix) :
    doubleRounds (r + 1) x = diagonalRound (columnRound (doubleRounds r x)) := by
  induction r generalizing x with
  | zero => rfl
  | succ r ih => rw [doubleRounds, ih]; rfl

theorem serialise_getElem (y : Matrix) (j : Nat) (h : j < 64) :
    (serialise y)[j] = (y[j / 4]).extractLsb' (8 * (j % 4)) 8 := by
  simp only [serialise, Vector.getElem_ofFn]
  exact bytesLe32_getElem _ _ (by omega)

theorem engine_tick_mk (x o : Matrix) (q : StepCount) :
    (Engine.mk x o q).tick = ⟨qrAt (stepTuple q) x, o, q + 1⟩ := rfl

theorem engine_ticks_add (a b : Nat) (e : Engine) :
    Engine.ticks (a + b) e = Engine.ticks a (Engine.ticks b e) := by
  induction a with
  | zero => simp [Engine.ticks]
  | succ a ih => rw [Nat.succ_add, Engine.ticks, Engine.ticks, ih]

end Sys2Proof.Machine
end

