-- ==== Sys2Proof/Laws/PerInstr.lean ====
section
/-!
SUPPORT. A statement about every command as syntax, one lemma a constructor (spec/30_encoding.md rules R62, R66).
-/
namespace Sys2Proof.Laws.OpcodeAssigned

/-- Byte 0 of a command's frame is the command's opcode, and that opcode is one of the seven of rule R66. -/
def Statement (i : Instr) : Prop :=
  (encode i)[0] = opcode i ∧ opcode i ∈ [0x01#8, 0x02#8, 0x10#8, 0x11#8, 0x12#8, 0x13#8, 0x20#8]

theorem qr (a b c d : Word) : Statement (.qr a b c d) := by simp [Statement, encode, opcode]

theorem block (key : KeyBytes) (nonce : NonceBytes) (ctr : Word) : Statement (.block key nonce ctr) := by
  simp [Statement, encode, opcode]

theorem new (klen nlen : Byte) (key : KeyBytes) (nonce : NonceBytes) (idx : Index) :
    Statement (.new klen nlen key nonce idx) := by
  simp [Statement, encode, opcode]

theorem seek (idx : Index) : Statement (.seek idx) := by simp [Statement, encode, opcode]

theorem xorb (data : Byte) : Statement (.xorb data) := by simp [Statement, encode, opcode]

theorem nextb : Statement .nextb := by simp [Statement, encode, opcode]

theorem rdst : Statement .rdst := by simp [Statement, encode, opcode]

end Sys2Proof.Laws.OpcodeAssigned
end

