-- ==== Sys2Proof/Tests/Slice0.lean ====
section
/-!
SUPPORT. Small tests. Expected values come from spec/95_test_vectors.md (the V and P numbers) or from the worked
examples of the rules, never from the model. The witnesses at the end show that the hypotheses of each obligation can
be met.
-/
-- One test after another: a thread for each at once would need more memory than a build may have.
set_option Elab.async false

namespace Sys2Proof.Tests

open Sys2Proof.Machine Sys2Proof.Safety

/-! ### Helpers -/

/-- `KEY_A` of spec/95_test_vectors.md. -/
def keyA : KeyBytes :=
  #v[0x00, 0x01, 0x02, 0x03, 0x04, 0x05, 0x06, 0x07, 0x08, 0x09, 0x0a, 0x0b, 0x0c, 0x0d, 0x0e, 0x0f,
     0x10, 0x11, 0x12, 0x13, 0x14, 0x15, 0x16, 0x17, 0x18, 0x19, 0x1a, 0x1b, 0x1c, 0x1d, 0x1e, 0x1f]

/-- `NONCE_A` of spec/95_test_vectors.md. -/
def nonceA : NonceBytes := #v[0x00, 0x00, 0x00, 0x00, 0x00, 0x00, 0x00, 0x4a, 0x00, 0x00, 0x00, 0x00]

/-- The state a command leaves. -/
def after (i : Instr) (s : State) : State :=
  match exec i s with
  | .next t => t
  | _ => s

/-- The state a frame leaves. -/
def served (f : Frame) (s : State) : State :=
  match serveFrame f s with
  | .next t => t
  | _ => s

/-- The state a step leaves. -/
def stepped (s : State) : State :=
  match step s with
  | .next t => t
  | _ => s

/-- The first `n` bytes of the response: the code, three zeros and the start of the payload. -/
def answer (n : Nat) (s : State) : List Byte := (s.rsp.map fun r => r.toList.take n).getD []

/-- `(CONFIGURED, KSB_VALID, FAULT, LAST_ERR, CTR, OFF, KSB_TAG)`, the state as spec/95_test_vectors.md writes it. -/
structure Status where
  configured : Bool
  ksbValid : Bool
  fault : Bool
  lastErr : Byte
  ctr : Word
  off : Offset
  ksbTag : Word
  deriving DecidableEq, Repr

def status (s : State) : Status := ⟨s.configured, s.ksbValid, s.fault, s.lastErr, s.ctr, s.off, s.ksbTag⟩

/-- An engine after `NEW KEY_A, NONCE_A, idx`. -/
def engine (idx : Index) : State := after (.new 32 12 keyA nonceA idx) State.reset

/-- An engine with `KEY_A`, `NONCE_A` and block 0 cached, the cursor inside it. -/
def cached (off : Offset) : State :=
  { engine 0 with off := off, ksb := blockOf (engine 0).k (engine 0).n 0, ksbValid := true }

/-- The frame of a short list of bytes, zeros after them. -/
def frame (bytes : List Byte) : Frame := padBytes 56 bytes

/-! ### Decoding, on frames written out from spec/30_encoding.md rule R62 and spec/95_test_vectors.md -/

/-- The frame of V5. -/
theorem test_decode_qr :
    decode (frame [0x01, 0x00, 0x00, 0x00, 0x11, 0x11, 0x11, 0x11, 0x04, 0x03, 0x02, 0x01,
      0x43, 0x6f, 0x8d, 0x9b, 0x67, 0x45, 0x23, 0x01]) =
    .ok (.qr 0x11111111 0x01020304 0x9b8d6f43 0x01234567) := by decide +kernel

/-- The frame of V11, all 56 bytes. -/
theorem test_decode_block :
    decode #v[0x02, 0x00, 0x00, 0x00, 0x00, 0x01, 0x02, 0x03, 0x04, 0x05, 0x06, 0x07, 0x08, 0x09, 0x0a, 0x0b,
      0x0c, 0x0d, 0x0e, 0x0f, 0x10, 0x11, 0x12, 0x13, 0x14, 0x15, 0x16, 0x17, 0x18, 0x19, 0x1a, 0x1b,
      0x1c, 0x1d, 0x1e, 0x1f, 0x00, 0x00, 0x00, 0x00, 0x00, 0x00, 0x00, 0x4a, 0x00, 0x00, 0x00, 0x00,
      0x01, 0x00, 0x00, 0x00, 0x00, 0x00, 0x00, 0x00] = .ok (.block keyA nonceA 1) := by decide +kernel

/-- The NEW frame of P1, all 56 bytes. -/
theorem test_decode_new :
    decode #v[0x10, 0x20, 0x0c, 0x00, 0x00, 0x01, 0x02, 0x03, 0x04, 0x05, 0x06, 0x07, 0x08, 0x09, 0x0a, 0x0b,
      0x0c, 0x0d, 0x0e, 0x0f, 0x10, 0x11, 0x12, 0x13, 0x14, 0x15, 0x16, 0x17, 0x18, 0x19, 0x1a, 0x1b,
      0x1c, 0x1d, 0x1e, 0x1f, 0x00, 0x00, 0x00, 0x00, 0x00, 0x00, 0x00, 0x4a, 0x00, 0x00, 0x00, 0x00,
      0x40, 0x00, 0x00, 0x00, 0x00, 0x00, 0x00, 0x00] = .ok (.new 32 12 keyA nonceA 64) := by decide +kernel

/-- `SEEK` with the eight bytes of V39, whose number is `0x0123456789ABCDEF`. -/
theorem test_decode_seek :
    decode (frame (0x11 :: List.replicate 47 0 ++ [0xef, 0xcd, 0xab, 0x89, 0x67, 0x45, 0x23, 0x01])) =
      .ok (.seek 0x0123456789ABCDEF) := by decide +kernel

/-- The first XORB frame of P1, `12 00 00 dd 00 ...` with `dd = 4c`. -/
theorem test_decode_xorb : decode (frame [0x12, 0x00, 0x00, 0x4c]) = .ok (.xorb 0x4c) := by decide +kernel

/-- The NEXTB frame of P3. -/
theorem test_decode_nextb : decode (frame [0x13]) = .ok .nextb := by decide +kernel

/-- The RDST frame of P1. -/
theorem test_decode_rdst : decode (frame [0x20]) = .ok .rdst := by decide +kernel

/-- The all-zeros and the all-ones frame, and the frame `03 00 ...` of P4, are illegal (rule R67). -/
theorem test_decode_illegal :
    decode (zeros 56) = .error (.illegalCommand 0x00) ∧
    decode (Vector.replicate 56 0xFF) = .error (.illegalCommand 0xFF) ∧
    decode (frame [0x03]) = .error (.illegalCommand 0x03) := by decide +kernel

/-- Bit numbering of rules R61 and R62: `OP` is bits 7:0, `DATA` bits 31:24; a table word of 8 bits has zeros above. -/
theorem test_decode_table_word :
    decodeTableWord 8 0x01 = some (.qr 0 0 0 0) ∧ decodeTableWord 8 0x13 = some .nextb ∧
    decodeTableWord 32 0x4c000012 = some (.xorb 0x4c) ∧ decodeTableWord 8 0x4c000012 = some (.xorb 0) ∧
    decodeTableWord 8 0x00 = none ∧ decodeTableWord 449 0x13 = none := by decide +kernel

/-! ### Well-formedness: an ill-formed term for each check -/

/-- 55 and 57 bytes are no frame (rule R62). -/
theorem test_frame_size :
    wellSizedFrame (List.replicate 56 0x13) = true ∧ wellSizedFrame (List.replicate 55 0x13) = false ∧
    wellSizedFrame (List.replicate 57 0x13) = false ∧
    decodeBytes (List.replicate 55 0x13) = .error (.notAFrame 55) ∧
    decodeBytes (List.replicate 56 0x13) = .ok .nextb := by decide +kernel

/-- The XORB frame of V72, with `F[48..55] = ff ..`, is not canonical; the one of P1 is (rule R68). -/
theorem test_canonical :
    canonicalFrame (frame [0x12, 0x00, 0x00, 0x4c]) = true ∧
    canonicalFrame (frame (0x12 :: 0x00 :: 0x00 :: 0x4c :: List.replicate 44 0 ++ List.replicate 8 0xff)) = false := by
  decide +kernel

/-- A number too big for its field, and a negative one (rules R64, R75). -/
theorem test_number_fits :
    (NumExpr.sub (.pow2 32) (.lit 1)).fits 32 = true ∧ (NumExpr.pow2 32).fits 32 = false ∧
    (NumExpr.sub (.lit 0) (.lit 1)).fits 32 = false ∧ (NumExpr.add (.lit 255) (.lit 1)).fits 8 = false := by decide

/-- Each line with an operand outside its field (rule R75). -/
theorem test_line_refused :
    (Line.qr (.lit 0) (.lit 0) (.lit 0) (.pow2 32)).wellFormed = false ∧
    (Line.qr (.lit 0) (.lit 0) (.pow2 32) (.lit 0)).wellFormed = false ∧
    (Line.qr (.lit 0) (.pow2 32) (.lit 0) (.lit 0)).wellFormed = false ∧
    (Line.qr (.pow2 32) (.lit 0) (.lit 0) (.lit 0)).wellFormed = false ∧
    (Line.block (List.replicate 31 0) (List.replicate 12 0) (.lit 0)).wellFormed = false ∧
    (Line.block (List.replicate 32 0) (List.replicate 11 0) (.lit 0)).wellFormed = false ∧
    (Line.block (List.replicate 32 0) (List.replicate 12 0) (.pow2 32)).wellFormed = false ∧
    (Line.seek (.pow2 64)).wellFormed = false ∧ (Line.xorb (.lit 256)).wellFormed = false := by decide +kernel

/-- NEW: a string longer than its field, an index or a length out of range; shorter strings are padded (rule R75). -/
theorem test_new_line :
    (Line.new (List.replicate 33 0) [] (.lit 0) none none).wellFormed = false ∧
    (Line.new [] (List.replicate 13 0) (.lit 0) none none).wellFormed = false ∧
    (Line.new [] [] (.pow2 64) none none).wellFormed = false ∧
    (Line.new [] [] (.lit 0) (some (.lit 256)) none).wellFormed = false ∧
    (Line.new [] [] (.lit 0) none (some (.lit 256))).wellFormed = false ∧
    (Line.new keyA.toList nonceA.toList (.lit 64) none none).wellFormed = true := by decide +kernel

/-- The assembler's NEW line of P1 emits P1's frame, lengths defaulting to 32 and 12 (rule R75). -/
theorem test_assemble_new :
    assembleLine (.new keyA.toList nonceA.toList (.lit 64) none none) =
      [frame ([0x10, 0x20, 0x0c, 0x00] ++ keyA.toList ++ nonceA.toList ++ [0x40])] := by decide +kernel

/-- Source text: a QR line gives V5's frame; a quoted `;`; a NEW with lengths as in P4; what is no line (rule R75). -/
theorem test_source_text :
    assembleText ["QR     0x11111111, 0x01020304, 0x9b8d6f43, 0x01234567  ; V5".toList] =
      some [frame [0x01, 0x00, 0x00, 0x00, 0x11, 0x11, 0x11, 0x11, 0x04, 0x03, 0x02, 0x01,
        0x43, 0x6f, 0x8d, 0x9b, 0x67, 0x45, 0x23, 0x01]] ∧
    assembleText ["APPLY \";\"".toList] = some [frame [0x12, 0, 0, 0x3b]] ∧
    assembleText ["NEW key=00ff, nonce=, idx=2^38 + 64, klen=31, nlen=8".toList] =
      some [frame ([0x10, 0x1f, 0x08, 0x00, 0x00, 0xff] ++ List.replicate 42 0 ++ [0x40, 0, 0, 0, 0x40])] ∧
    assembleText ["  ; only a comment".toList, "NEXTB".toList] = some [frame [0x13]] ∧
    assembleText ["NOP".toList] = none ∧ assembleText ["XORB -1".toList] = none ∧
    assembleText ["BLOCK key=00, nonce=00, ctr=1".toList] = none := by decide +kernel

/-! ### One step of each command -/

/-- V5. -/
theorem test_qr_V5 :
    quarterRound ⟨0x11111111, 0x01020304, 0x9b8d6f43, 0x01234567⟩ =
      ⟨0xea2a92f4, 0xcb1cf8ce, 0x4581472e, 0x5881c4bb⟩ := by decide

/-- V9a to V9d, which tell every mis-ordering of operands and every swap of two rotations apart. -/
theorem test_qr_V9 :
    quarterRound ⟨1, 0, 0, 0⟩ = ⟨0x10000001, 0x80808808, 0x01010110, 0x01000110⟩ ∧
    quarterRound ⟨0, 1, 0, 0⟩ = ⟨0x10001001, 0x88888808, 0x01110110, 0x01100110⟩ ∧
    quarterRound ⟨0, 0, 1, 0⟩ = ⟨0x00001000, 0x08080080, 0x00100001, 0x00100000⟩ ∧
    quarterRound ⟨0, 0, 0, 1⟩ = ⟨0x10000000, 0x80800808, 0x01010010, 0x01000010⟩ := by decide

/-- The matrix after the first double-round of the worked example of rule R121 (V10, q = 7). -/
theorem test_first_double_round :
    doubleRounds 1 (initMatrix (keyWords keyA) (nonceWords nonceA) 1) =
      #v[0xd767e205, 0x846003b4, 0xb2460395, 0x49bdecdd, 0xa7b1b52a, 0x8f3624d1, 0xb9415d8f, 0xd128051b,
         0x7937ce4a, 0xdeebddb4, 0x5cad36f2, 0xab177919, 0xa01288a2, 0x64d84e1b, 0x073cf1d7, 0xdc671717] := by
  decide +kernel

/-- V70: BLOCK right after reset answers V11. -/
theorem test_block_V11 :
    answer 20 (after (.block keyA nonceA 1) State.reset) =
      [0, 0, 0, 0, 0x22, 0x4f, 0x51, 0xf3, 0x40, 0x1b, 0xd9, 0xe1, 0x2f, 0xde, 0x27, 0x6f, 0xb8, 0x63, 0x1d, 0xed] ∧
    status (after (.block keyA nonceA 1) State.reset) = status State.reset := by decide +kernel

/-- V20, as quoted in rule R121: the block of a zero key, nonce and counter begins `76 b8 e0 ad a0 f1 3d 90`. -/
theorem test_block_V20 :
    answer 12 (after (.block (zeros 32) (zeros 12) 0) State.reset) =
      [0, 0, 0, 0, 0x76, 0xb8, 0xe0, 0xad, 0xa0, 0xf1, 0x3d, 0x90] := by decide +kernel

/-- V50. -/
theorem test_new_V50 :
    status (engine 64) = ⟨true, false, false, 0x00, 1, 0, 0⟩ ∧ answer 4 (engine 64) = [0, 0, 0, 0] := by
  decide +kernel

/-- V63: both lengths wrong, the key length is reported (rule R175). -/
theorem test_new_V63 :
    status (after (.new 31 8 keyA nonceA 0) State.reset) = ⟨false, false, true, 0x01, 0, 0, 0⟩ ∧
    answer 5 (after (.new 31 8 keyA nonceA 0) State.reset) = [0x01, 0, 0, 0, 0] := by decide +kernel

/-- V54 and V55 on block 0: a SEEK inside the cached block keeps it, one to another block drops it, the tag stays. -/
theorem test_seek_cache :
    status (after (.seek 63) (cached 1)) = ⟨true, true, false, 0x00, 0, 63, 0⟩ ∧
    status (after (.seek 64) (cached 1)) = ⟨true, false, false, 0x00, 1, 0, 0⟩ := by decide +kernel

/-- V39: the index `0x0123456789ABCDEF` is counter `0x9E26AF37`, offset 47. -/
theorem test_seek_V39 :
    status (after (.seek 0x0123456789ABCDEF) (engine 0)) = ⟨true, false, false, 0x00, 0x9E26AF37, 47, 0⟩ := by
  decide +kernel

/-- V51: a miss at offset 0 of block 1. -/
theorem test_xorb_V51 :
    status (after (.xorb 0x4c) (engine 64)) = ⟨true, true, false, 0x00, 1, 1, 1⟩ ∧
    answer 6 (after (.xorb 0x4c) (engine 64)) = [0, 0, 0, 0, 0x6e, 0] := by decide +kernel

/-- V58: no engine instance. -/
theorem test_xorb_V58 :
    status (after (.xorb 0x41) State.reset) = ⟨false, false, true, 0x04, 0, 0, 0⟩ ∧
    answer 5 (after (.xorb 0x41) State.reset) = [0x04, 0, 0, 0, 0] := by decide +kernel

/-- P2, first byte: a miss at offset 42 generates the block; keystream byte `a3` (V49c). -/
theorem test_nextb_inside_a_block :
    status (after .nextb (engine 42)) = ⟨true, true, false, 0x00, 0, 43, 0⟩ ∧
    answer 5 (after .nextb (engine 42)) = [0, 0, 0, 0, 0xa3] := by decide +kernel

/-- P5 steps 1 and 3: the last byte of the keystream space, the counter wraps, the cache is dropped, no fault. -/
theorem test_nextb_wrap :
    status (after .nextb (engine 0x3FFFFFFFFF)) = ⟨true, false, false, 0x00, 0, 0, 0xFFFFFFFF⟩ ∧
    answer 5 (after .nextb (engine 0x3FFFFFFFFF)) = [0, 0, 0, 0, 0x75] := by decide +kernel

/-- V66: right after reset RDST reports twelve zero bytes. -/
theorem test_rdst_V66 : answer 16 (after .rdst State.reset) = List.replicate 16 0 := by decide +kernel

/-- P4 step 17: every flag and field of the status view set. -/
theorem test_rdst_P4 :
    answer 16 (after .rdst { State.reset with
      configured := true, ksbValid := true, fault := true, lastErr := 0x03, off := 2, ctr := 1, ksbTag := 1 }) =
      [0, 0, 0, 0, 0x07, 0x03, 0x02, 0x00, 0x01, 0x00, 0x00, 0x00, 0x01, 0x00, 0x00, 0x00] := by decide +kernel

/-- V61: an illegal opcode faults with code 3. -/
theorem test_illegal_V61 :
    status (served (zeros 56) State.reset) = ⟨false, false, true, 0x03, 0, 0, 0⟩ ∧
    answer 5 (served (zeros 56) State.reset) = [0x03, 0, 0, 0, 0] := by decide +kernel

/-- A table word placed at the port is the next command: `0x20` answers as V66. -/
theorem test_step_runs_a_table_word :
    answer 16 (stepped (State.reset.withFetchWord 8 0x20)) = List.replicate 16 0 ∧
    (stepped (State.reset.withFetchWord 8 0x20)).cmdReady = false := by decide +kernel

/-- A step under `RST` zeroises an engine, although a command is presented with it (rule R201). -/
theorem test_step_reset :
    (stepped { cached 1 with host := [⟨true, true, frame [0x13], true⟩] }).ksb = zeros 64 ∧
    status (stepped { cached 1 with host := [⟨true, true, frame [0x13], true⟩] }) = status State.reset := by
  decide +kernel

/-- The macro APPLY on the first three bytes of P1's text, `4c 61 64`, gives `6e 2e 35`. -/
theorem test_apply_P1 : (applyMacro [0x4c, 0x61, 0x64] (engine 64)).2 = [0x6e, 0x2e, 0x35] := by decide +kernel

/-! ### Witnesses: states and operands that meet the hypotheses of the obligations, each clause at a boundary -/

/-- A response with a given code, standing in a state. -/
def answered (code : Byte) (s : State) : State := { s with rsp := some (responseOf code []) }

theorem engine_next (idx : Index) : exec (.new 32 12 keyA nonceA idx) State.reset = .next (engine idx) := rfl

theorem engine_sound (idx : Index) : CacheSound (engine idx) := fun h => by cases h

theorem cached_sound (off : Offset) : CacheSound (cached off) := fun _ => ⟨rfl, rfl, rfl⟩

/-- EncodeOfDecode. -/
theorem witness_EncodeOfDecode :
    canonicalFrame (frame [0x12, 0, 0, 0x4c]) = true ∧ decode (frame [0x12, 0, 0, 0x4c]) = .ok (.xorb 0x4c) := by
  decide +kernel

/-- UnreadBytesIgnored: the frames of V72 and V51; an unread byte of XORB; two XORB frames. -/
theorem witness_UnreadBytesIgnored :
    (∀ k : Fin 56, formatReads (frame [0x12, 0, 0, 0x4c])[0] k.val = true →
      (frame [0x12, 0, 0, 0x4c])[k] =
        (frame (0x12 :: 0x00 :: 0x00 :: 0x4c :: List.replicate 44 0 ++ List.replicate 8 0xff))[k]) ∧
    formatReads (opcode (.xorb 0x4c)) 55 = false ∧
    (frame [0x12, 0, 0, 0x4c])[0] = (frame [0x12, 0, 0, 0x61])[0] ∧
    decode (frame [0x12, 0, 0, 0x4c]) = .ok (.xorb 0x4c) ∧ decode (frame [0x12, 0, 0, 0x61]) = .ok (.xorb 0x61) := by
  decide +kernel

/-- IllegalOpcodesFault: both ends of every range, and the seven opcodes. -/
theorem witness_IllegalOpcodesFault :
    (∀ op ∈ [0x00#8, 0x03#8, 0x0F#8, 0x14#8, 0x1F#8, 0x21#8, 0xFF#8],
      (frame [op])[0].toNat = 0x00 ∨ (0x03 ≤ (frame [op])[0].toNat ∧ (frame [op])[0].toNat ≤ 0x0F) ∨
      (0x14 ≤ (frame [op])[0].toNat ∧ (frame [op])[0].toNat ≤ 0x1F) ∨ 0x21 ≤ (frame [op])[0].toNat) ∧
    (∀ op ∈ [0x01#8, 0x02#8, 0x10#8, 0x11#8, 0x12#8, 0x13#8, 0x20#8],
      (frame [op])[0] ∈ [0x01#8, 0x02#8, 0x10#8, 0x11#8, 0x12#8, 0x13#8, 0x20#8]) := by decide +kernel

/-- ResponseFrameLayout: the longest payload, and a faulting response. -/
theorem witness_ResponseFrameLayout :
    (List.replicate 64 0xFF#8).length ≤ 64 ∧
    ∃ t r, serveFrame (frame [0x00]) State.reset = .next t ∧ t.rsp = some r ∧ r[0] ≠ 0x00 :=
  ⟨by decide, _, responseOf 0x03 [], rfl, rfl, by decide⟩

/-- AssembledLinesDecode: a line of each kind with its numbers at the top of their fields, NEW with its defaults and an
empty nonce, and the largest number of each width. -/
theorem witness_AssembledLinesDecode :
    (Line.new [0x01] [] (.sub (.pow2 64) (.lit 1)) none none).wellFormed = true ∧
    (Line.qr (.sub (.pow2 32) (.lit 1)) (.lit 0) (.lit 0) (.sub (.pow2 32) (.lit 1))).wellFormed = true ∧
    (Line.block keyA.toList nonceA.toList (.sub (.pow2 32) (.lit 1))).wellFormed = true ∧
    (Line.seek (.sub (.pow2 64) (.lit 1))).wellFormed = true ∧ (Line.xorb (.lit 255)).wellFormed = true ∧
    (NumExpr.sub (.pow2 64) (.lit 1)).fits 64 = true ∧ (NumExpr.sub (.pow2 32) (.lit 1)).fits 32 = true ∧
    (NumExpr.lit 255).fits 8 = true := by decide +kernel

/-- SourceTextAssembles: a text that assembles to a frame. -/
theorem witness_SourceTextAssembles : assembleText ["NEXTB".toList] = some [frame [0x13]] := by decide +kernel

/-- RotationMovesEveryBit: the least and the greatest amount, and a top bit. -/
theorem witness_RotationMovesEveryBit :
    (0 < 1 ∧ 1 < 32) ∧ (0 < 31 ∧ 31 < 32) ∧ (rotl32 0x80000000 1).getLsbD ((31 + 1) % 32) = true := by decide

/-- QuarterRoundFollowsTheSource: the four amounts. -/
theorem witness_QuarterRoundFollowsTheSource :
    16 ∈ [16, 12, 8, 7] ∧ 12 ∈ [16, 12, 8, 7] ∧ 8 ∈ [16, 12, 8, 7] ∧ 7 ∈ [16, 12, 8, 7] := by decide

/-- XorIsBitwise: the top bits. -/
theorem witness_XorIsBitwise : 31 < 32 ∧ 7 < 8 := by decide

/-- QrAnswersTheQuarterRound, BlockAnswersTheTransform, NewConstructsAnInstance, SeekRepositions, XorbAppliesOneByte,
NextbReturnsTheByte and RdstReportsTheStatus: a frame with each opcode. -/
theorem witness_opcode_bytes :
    (frame [0x01])[0] = 0x01 ∧ (frame [0x02])[0] = 0x02 ∧ (frame [0x10])[0] = 0x10 ∧ (frame [0x11])[0] = 0x11 ∧
    (frame [0x12])[0] = 0x12 ∧ (frame [0x13])[0] = 0x13 ∧ (frame [0x20])[0] = 0x20 := by decide +kernel

/-- QrAtTouchesItsTuple: the last diagonal tuple, a word outside it, and both kinds of tuple. -/
theorem witness_QrAtTouchesItsTuple :
    [(diagonalTuple 3).i, (diagonalTuple 3).j, (diagonalTuple 3).k, (diagonalTuple 3).l].Nodup ∧
    (0 : Fin 16) ∉ [(diagonalTuple 3).i, (diagonalTuple 3).j, (diagonalTuple 3).k, (diagonalTuple 3).l] ∧
    columnTuple 3 ∈ [columnTuple 3, diagonalTuple 3] := by decide

/-- LanesRunInAnyOrder: the reverse order. -/
theorem witness_LanesRunInAnyOrder : ([3, 2, 1, 0] : List (Fin 4)).Perm [0, 1, 2, 3] := by decide

/-- SerialiserByteOrder: the matrix whose word 0 is that of the example. -/
theorem witness_SerialiserByteOrder : ((Vector.replicate 16 0xF3514F22 : Matrix))[0] = 0xF3514F22 := by decide

/-- SequencerComputesTheBlock: the last step, in a diagonal phase, the first, in a column phase, and ten rounds. -/
theorem witness_SequencerComputesTheBlock :
    (79#7).toNat < 80 ∧ (79#7).toNat / 4 % 2 ≠ 0 ∧ (0#7).toNat / 4 % 2 = 0 ∧ 10 ≤ 10 := by decide

/-- ScratchInfluencesNothing: the reset state beside one with other scratch. -/
theorem witness_ScratchInfluencesNothing :
    SameButScratch State.reset { State.reset with x := Vector.replicate 16 1 } := rfl

/-- FunctionUnitsDoNotDisturb: both commands, between bytes of an engine with a cached block. -/
theorem witness_FunctionUnitsDoNotDisturb :
    (∃ u v w, opcode (.qr 0 0 0 0) = 0x01 ∧ exec (.qr 0 0 0 0) (cached 1) = .next u ∧
      exec (.xorb 0) u = .next v ∧ exec (.xorb 0) (cached 1) = .next w) ∧
    (∃ u v w, opcode (.block keyA nonceA 0) = 0x02 ∧ exec (.block keyA nonceA 0) (cached 1) = .next u ∧
      exec (.xorb 0) u = .next v ∧ exec (.xorb 0) (cached 1) = .next w) :=
  ⟨⟨_, _, _, rfl, rfl, rfl, rfl⟩, ⟨_, _, _, rfl, rfl, rfl, rfl⟩⟩

/-- IndicesAliasModulo38Bits: index 0 and 2^38 (V36). -/
theorem witness_IndicesAliasModulo38Bits :
    (0 : Index).toNat % 2 ^ 38 = (0x4000000000 : Index).toNat % 2 ^ 38 := by decide

/-- FillGeneratesOnAMiss: a hit; a miss by the flag and by the tag, both inside a block. -/
theorem witness_FillGeneratesOnAMiss :
    ((cached 1).ksbValid = true ∧ (cached 1).ksbTag = (cached 1).ctr) ∧ (engine 42).ksbValid = false ∧
    ({ cached 1 with ctr := 1 } : State).ksbTag ≠ ({ cached 1 with ctr := 1 } : State).ctr :=
  ⟨⟨rfl, rfl⟩, rfl, by decide +kernel⟩

/-- AdvanceMovesOneByte: offset 63, offset 62, the last byte of the space, and a byte request that moves the
counter. -/
theorem witness_AdvanceMovesOneByte :
    (cached 63).off = 63#6 ∧ (cached 62).off ≠ 63#6 ∧
    ((engine 0x3FFFFFFFFF).ctr = 0xFFFFFFFF ∧ (engine 0x3FFFFFFFFF).off = 63#6) ∧
    exec .nextb (cached 63) = .next (after .nextb (cached 63)) ∧ (after .nextb (cached 63)).ctr ≠ (cached 63).ctr ∧
    (after (.seek 64) (cached 63)).ctr ≠ (cached 63).ctr :=
  ⟨rfl, by decide, ⟨by decide +kernel, by decide +kernel⟩, rfl, by decide +kernel, by decide +kernel⟩

/-- NewConstructsAnInstance and NewRefusesWrongLengths: lengths just below and just above, and a NEW that succeeds. -/
theorem witness_New :
    (31 : Byte) ≠ 32 ∧ (33 : Byte) ≠ 32 ∧ (11 : Byte) ≠ 12 ∧ (13 : Byte) ≠ 12 ∧
    (31 : Byte).toNat ≠ 32 ∧ (32 : Byte).toNat = 32 ∧ (13 : Byte).toNat ≠ 12 ∧
    ∃ t, exec (.new 32 12 keyA nonceA 64) State.reset = .next t :=
  ⟨by decide, by decide, by decide, by decide, by decide, by decide, by decide, _, rfl⟩

/-- SeekRepositions: an engine and none; the cached block, the current index, and the engine of the example. -/
theorem witness_SeekRepositions :
    (engine 0).configured = true ∧ State.reset.configured = false ∧
    (CacheSound (cached 63) ∧ (cached 63).ksbValid = true ∧ (63 : Index).extractLsb' 6 32 = (cached 63).ksbTag) ∧
    (CacheSound (cached 63) ∧ (cached 63).configured = true ∧
      (0x400000003F : Index).toNat % 2 ^ 38 = cursorIndex (cached 63)) ∧
    (∃ s : State, s.configured = true ∧ s.ctr = 1 ∧ s.off = 2 ∧ s.ksbValid = true ∧ s.ksbTag = 1) :=
  ⟨rfl, rfl, ⟨cached_sound 63, rfl, rfl⟩, ⟨cached_sound 63, rfl, by decide +kernel⟩,
    { State.reset with configured := true, ctr := 1, off := 2, ksbValid := true, ksbTag := 1 },
    rfl, rfl, rfl, rfl, rfl⟩

/-- XorbAppliesOneByte and NextbReturnsTheByte: an engine and none; the last byte of the space; the example's NEW. -/
theorem witness_Xorb_Nextb :
    (cached 63).configured = true ∧ State.reset.configured = false ∧
    ((engine 0x3FFFFFFFFF).configured = true ∧ (engine 0x3FFFFFFFFF).ctr = 0xFFFFFFFF ∧
      (engine 0x3FFFFFFFFF).off = 63#6) ∧
    ∃ t, exec (.new 32 12 (Vector.ofFn fun i : Fin 32 => BitVec.ofNat 8 i.val)
      #v[0, 0, 0, 0, 0, 0, 0, 0x4a, 0, 0, 0, 0] 64) State.reset = .next t :=
  ⟨rfl, rfl, ⟨rfl, by decide +kernel, by decide +kernel⟩, _, rfl⟩

/-- BytesComeFromTheKeystream, ApplyXorsTheKeystream and KeystreamIsApplyOnZeros: a hit at the last byte of a block, a
miss inside one, and no instance, with one byte to apply or to collect. -/
theorem witness_sound_engine :
    (CacheSound (cached 63) ∧ (cached 63).configured = true) ∧
    (CacheSound (engine 42) ∧ (engine 42).configured = true) ∧
    (State.reset.configured = false ∧ ([0x41] : List Byte) ≠ [] ∧ 0 < 1) :=
  ⟨⟨cached_sound 63, rfl⟩, ⟨engine_sound 42, rfl⟩, rfl, by decide, by decide⟩

/-- RdstReportsTheStatus: the state of the example. -/
theorem witness_RdstReportsTheStatus :
    ∃ s : State, s.configured = true ∧ s.ksbValid = true ∧ s.fault = false ∧ s.lastErr = 0x00 ∧ s.off = 1 ∧
      s.ctr = 1 ∧ s.ksbTag = 1 :=
  ⟨{ State.reset with configured := true, ksbValid := true, off := 1, ctr := 1, ksbTag := 1 },
    rfl, rfl, rfl, rfl, rfl, rfl, rfl⟩

/-- EngineCommandsNeedAnInstance: the three commands without an instance; a command of the other four, answered. -/
theorem witness_EngineCommandsNeedAnInstance :
    State.reset.configured = false ∧ opcode (.seek 0) ∈ [0x11#8, 0x12#8, 0x13#8] ∧
    opcode (.xorb 0) ∈ [0x11#8, 0x12#8, 0x13#8] ∧ opcode .nextb ∈ [0x11#8, 0x12#8, 0x13#8] ∧
    opcode (.new 31 8 keyA nonceA 0) ∈ [0x01#8, 0x02#8, 0x10#8, 0x20#8] ∧
    ∃ t r, exec (.new 31 8 keyA nonceA 0) State.reset = .next t ∧ t.rsp = some r :=
  ⟨rfl, by decide, by decide, by decide, by decide, _, responseOf 0x01 [], rfl, rfl⟩

/-- SeekAcrossABlockBoundary: block 0 cached. -/
theorem witness_SeekAcrossABlockBoundary :
    (cached 0).configured = true ∧ (cached 0).ksbValid = true ∧ (cached 0).ksbTag = 0 := ⟨rfl, rfl, rfl⟩

/-- RepeatingIsIdempotent: a SEEK. -/
theorem witness_RepeatingIsIdempotent :
    opcode (.seek 64) ∉ [0x12#8, 0x13#8] ∧ ∃ t, exec (.seek 64) (cached 1) = .next t := ⟨by decide, _, rfl⟩

/-- ApplyIsSelfInverse and SeekBackReencrypts: the engine of P2, and a SEEK back after APPLY of one byte. -/
theorem witness_SeekBackReencrypts :
    ∃ t u, exec (.new 32 12 keyA nonceA 42) State.reset = .next t ∧
      exec (.seek 42) (applyMacro [0x73] t).1 = .next u := ⟨_, _, rfl, rfl⟩

/-- ApplyDependsOnTheIndexOnly: index 0 with block 0 cached and with nothing cached. -/
theorem witness_ApplyDependsOnTheIndexOnly :
    CacheSound (cached 0) ∧ CacheSound (engine 0) ∧ (cached 0).configured = true ∧ (engine 0).configured = true ∧
    (cached 0).k = (engine 0).k ∧ (cached 0).n = (engine 0).n ∧ cursorIndex (cached 0) = cursorIndex (engine 0) :=
  ⟨cached_sound 0, engine_sound 0, rfl, rfl, rfl, rfl, by decide +kernel⟩

/-- CursorAfterARunOfBytes: a run of both commands from the last index of the space. -/
theorem witness_CursorAfterARunOfBytes :
    (∃ t, exec (.new 32 12 keyA nonceA 0x3FFFFFFFFF) State.reset = .next t) ∧
    ∀ i ∈ [Instr.xorb 0x4c, Instr.nextb], opcode i = 0x12 ∨ opcode i = 0x13 := ⟨⟨_, rfl⟩, by decide⟩

/-- FaultsArePrecise and RepeatedFaultsRepeat: a frame that faults, and one that does not. -/
theorem witness_Faults :
    (∃ t r, serveFrame (frame [0x00]) State.reset = .next t ∧ t.rsp = some r ∧ r[0] ≠ 0x00) ∧
    (∃ t r, serveFrame (frame [0x20]) State.reset = .next t ∧ t.rsp = some r ∧ r[0] = 0x00) :=
  ⟨⟨_, responseOf 0x03 [], rfl, rfl, by decide⟩, ⟨_, _, rfl, rfl, by decide⟩⟩

/-- OnlyResetClears, OnlyNewWritesTheKey and ResetWins: a step under `RST` clears each of the three and the key. -/
theorem witness_reset_step :
    (∃ s t : State, step s = .next t ∧ s.configured = true ∧ t.configured = false ∧ t.k ≠ s.k) ∧
    (∃ s t : State, step s = .next t ∧ s.fault = true ∧ t.fault = false ∧ s.lastErr ≠ 0x00 ∧ t.lastErr = 0x00) ∧
    ∃ (s : State) (p : PortIn) (rest : List PortIn), s.host = p :: rest ∧ p.rst = true :=
  ⟨⟨{ engine 0 with host := [assertReset] }, _, rfl, rfl, rfl, by decide +kernel⟩,
    ⟨{ State.reset with fault := true, lastErr := 0x03, host := [assertReset] }, _, rfl, rfl, rfl, by decide, rfl⟩,
    { State.reset with host := [assertReset] }, assertReset, [], rfl, rfl⟩

/-- OnlyNewWritesTheKey: a step that accepts a NEW. -/
theorem witness_OnlyNewWritesTheKey :
    ∃ s t : State, step s = .next t ∧ t.k ≠ s.k ∧ s.cmdReady = true :=
  ⟨{ State.reset with host := [offer (encode (.new 32 12 keyA nonceA 0))] }, _, rfl, by decide +kernel, rfl⟩

/-- SecretsAreNotReadable: two keys, and a command that is not XORB or NEXTB. -/
theorem witness_SecretsAreNotReadable :
    SameButSecrets (engine 0) { engine 0 with k := Vector.replicate 8 7 } ∧ opcode .rdst ∉ [0x12#8, 0x13#8] :=
  ⟨rfl, by decide⟩

/-- HandshakeIsKept, the steps at which no command is offered: at a free port, where nothing is to be taken, and with a
response waiting, held and taken. -/
theorem witness_no_command_offered :
    (∃ (s : State) (p : PortIn) (rest : List PortIn), s.host = p :: rest ∧ p.rst = false ∧
      (p.cmdValid = false ∨ s.cmdReady = false) ∧ s.rsp = none ∧ s.cmdReady = true ∧ p.rspReady = true) ∧
    (∃ (s : State) (p : PortIn) (rest : List PortIn) (r : Response), s.host = p :: rest ∧ p.rst = false ∧
      (p.cmdValid = false ∨ s.cmdReady = false) ∧ s.rsp = some r ∧ p.rspReady = false) ∧
    (∃ (s : State) (p : PortIn) (rest : List PortIn) (r : Response), s.host = p :: rest ∧ p.rst = false ∧
      (p.cmdValid = false ∨ s.cmdReady = false) ∧ s.rsp = some r ∧ p.rspReady = true) :=
  ⟨⟨{ State.reset with host := [collect] }, collect, [], rfl, rfl, .inl rfl, rfl, rfl, rfl⟩,
    ⟨{ answered 0 State.reset with host := [⟨false, false, zeros 56, false⟩] }, ⟨false, false, zeros 56, false⟩, [],
      responseOf 0 [], rfl, rfl, .inl rfl, rfl, rfl⟩,
    ⟨{ answered 0 State.reset with host := [collect] }, collect, [], responseOf 0 [], rfl, rfl, .inl rfl, rfl, rfl⟩⟩

/-- StepRunsTheDecodedCommand and HandshakeIsKept: a frame that decodes and one that does not, offered at a free port;
a response waiting, not taken and taken; and no pin driven. -/
theorem witness_port_steps :
    (∃ (s : State) (p : PortIn) (rest : List PortIn), s.host = p :: rest ∧ p.rst = false ∧ p.cmdValid = true ∧
      s.cmdReady = true ∧ decode p.cmdFrame = .ok .rdst ∧ ∃ t, step s = .next t) ∧
    (∃ (s : State) (p : PortIn) (rest : List PortIn), s.host = p :: rest ∧ p.rst = false ∧ p.cmdValid = true ∧
      s.cmdReady = true ∧ decode p.cmdFrame = .error (.illegalCommand 0x00)) ∧
    (∃ (s : State) (p : PortIn) (rest : List PortIn), s.host = p :: rest ∧ p.rst = false ∧ s.cmdReady = false ∧
      p.rspReady = false) ∧
    (∃ (s : State) (p : PortIn) (rest : List PortIn) (r : Response), s.host = p :: rest ∧ p.rst = false ∧
      s.cmdReady = false ∧ s.rsp = some r ∧ p.rspReady = true) ∧
    State.reset.host = [] :=
  ⟨⟨{ State.reset with host := [offer (frame [0x20])] }, offer (frame [0x20]), [], rfl, rfl, rfl, rfl,
      by decide +kernel, _, rfl⟩,
    ⟨{ State.reset with host := [offer (frame [])] }, offer (frame []), [], rfl, rfl, rfl, rfl, by decide +kernel⟩,
    ⟨{ answered 0 State.reset with cmdReady := false, host := [offer (frame [0x20])] }, offer (frame [0x20]), [],
      rfl, rfl, rfl, rfl⟩,
    ⟨{ answered 0 State.reset with cmdReady := false, host := [collect] }, collect, [], responseOf 0 [],
      rfl, rfl, rfl, rfl, rfl⟩, rfl⟩

/-- A state in which the cache, the instance, a recorded fault and a response are all there. -/
def full : State :=
  { answered 0x03 (cached 1) with fault := true, lastErr := 0x03, cmdReady := false, host := [collect] }

theorem full_unconfigured : UnconfiguredAtReset full := fun h => by cases h

theorem full_fault : FaultRecorded full := ⟨by decide, .inr ⟨.illegalCommand, rfl⟩⟩

theorem full_responses : ResponsesShaped full :=
  ⟨fun r hr => by cases hr; exact responseShape_fault .illegalCommand, fun r hr => by cases hr⟩

theorem full_in_flight : OneInFlight full := ⟨(fun h => by cases h), (fun h => by cases h)⟩

/-- EveryStepKeepsInv. -/
theorem witness_EveryStepKeepsInv :
    ∃ t, Inv full ∧ full.ksbValid = true ∧ full.fault = true ∧ full.rsp.isSome = true ∧ step full = .next t :=
  ⟨_, ⟨cached_sound 1, full_unconfigured, full_fault, full_responses, full_in_flight⟩, rfl, rfl, rfl, rfl⟩

/-- ScratchHoldsTheLastTransform: both commands that fill; an engine with nothing cached, and one with another block. -/
theorem witness_ScratchHoldsTheLastTransform :
    (opcode (.xorb 0) ∈ [0x12#8, 0x13#8] ∧ opcode .nextb ∈ [0x12#8, 0x13#8]) ∧
    ((engine 42).configured = true ∧ (engine 42).ksbValid = false) ∧
    (({ cached 1 with ctr := 1 } : State).configured = true ∧
      ({ cached 1 with ctr := 1 } : State).ksbTag ≠ ({ cached 1 with ctr := 1 } : State).ctr) :=
  ⟨by decide, ⟨rfl, rfl⟩, rfl, by decide +kernel⟩

/-- PortRunIsTheCommandSequence: a host that sends two commands to a machine just reset. -/
theorem witness_PortRunIsTheCommandSequence :
    ∃ s : State, s.cmdReady = true ∧ s.rsp = none ∧ s.host = driveFrames ([Instr.rdst, Instr.nextb].map encode) :=
  ⟨{ State.reset with host := driveFrames ([Instr.rdst, Instr.nextb].map encode) }, rfl, rfl, rfl⟩

end Sys2Proof.Tests
end

/-!
PROOF. Byte order and the map from a byte index to the cursor (spec/20_memory.md rules R41 to R43, R54; rules R119,
R130).
-/
namespace Sys2Proof.Proofs

open Sys2Proof.Machine Sys2Proof.Safety

/-! ### Words and their bytes -/

theorem le32_bytesLe32 (w : Word) :
    le32 (bytesLe32 w)[0] (bytesLe32 w)[1] (bytesLe32 w)[2] (bytesLe32 w)[3] = w := by
  apply BitVec.eq_of_toNat_eq
  simp only [le32_toNat, bytesLe32_getElem, extractByte_toNat]
  have := w.isLt
  omega

/-- Dividing the sum of rule R41 by `2 ^ (8 k)` drops the bytes below `b_k`; reducing modulo `2 ^ 8` drops those
above. -/
theorem bytesLe32_le32 (b0 b1 b2 b3 : Byte) : bytesLe32 (le32 b0 b1 b2 b3) = #v[b0, b1, b2, b3] := by
  have hsum := le32_toNat b0 b1 b2 b3
  have := b0.isLt; have := b1.isLt; have := b2.isLt; have := b3.isLt
  apply Vector.ext
  intro k hk
  apply BitVec.eq_of_toNat_eq
  rw [bytesLe32_getElem _ _ hk, extractByte_toNat, hsum]
  interval_cases k <;> simp only [Vector.getElem_mk, List.getElem_toArray, List.getElem_cons_zero,
    List.getElem_cons_succ] <;> omega

/-- Settles O1: both sums fit their width, so the reduction of `le32` and `le64` cuts nothing off. -/
theorem littleEndianSums : Obligations.LittleEndianSums :=
  ⟨le32_toNat, le64_toNat, by decide, by decide⟩

/-- Settles O2, by the round trips in both directions. -/
theorem wordBytesAreInverse : Obligations.WordBytesAreInverse :=
  ⟨fun _ => rfl, le32_bytesLe32, bytesLe32_le32, by decide⟩

/-! ### The serialiser -/

theorem serialise_getElem_toNat (y : Matrix) (j : Nat) (h : j < 64) :
    (serialise y)[j].toNat = y[j / 4].toNat / 2 ^ (8 * (j % 4)) % 2 ^ 8 := by
  rw [serialise_getElem y j h, extractByte_toNat]

/-- Bytes `4i` to `4i + 3` of the block are the bytes of word `i`. -/
theorem serialise_getElem_word (y : Matrix) (i j : Nat) (hi : i < 16) (hj : j < 4) :
    (serialise y)[4 * i + j] = (bytesLe32 y[i])[j] := by
  have hdiv : (4 * i + j) / 4 = i := by omega
  have hmod : (4 * i + j) % 4 = j := by omega
  rw [serialise_getElem y _ (by omega), bytesLe32_getElem _ _ hj]
  simp only [hdiv, hmod]

/-- Settles O22: a byte of the block is found by dividing its index by 4. -/
theorem serialiserByteOrder : Obligations.SerialiserByteOrder := by
  refine ⟨fun y j => ⟨serialise_getElem y j j.isLt, serialise_getElem_toNat y j j.isLt⟩,
    fun y i j => serialise_getElem_word y i j i.isLt j.isLt, fun y hy => ?_⟩
  simp only [serialise_getElem, Nat.reduceDiv, hy]
  decide

/-! ### The cursor of an index -/

@[simp] theorem position_ctr (idx : Index) (s : State) : (position idx s).ctr = idxCounter idx := rfl
@[simp] theorem position_off (idx : Index) (s : State) : (position idx s).off = idxOffset idx := rfl

theorem position_eq (idx : Index) (s : State) :
    position idx s = { s with ctr := idx.extractLsb' 6 32, off := idx.extractLsb' 0 6 } := rfl

/-- Settles O27, from the numbers the counter and the offset of an index are; the corner cases are closed
computations on them. -/
theorem positionMapsTheIndex : Obligations.PositionMapsTheIndex := by
  refine ⟨fun idx s => ⟨position_eq idx s, idxCounter_toNat idx, idxOffset_toNat idx, cursorIndex_position idx s⟩,
    fun s => ⟨rfl, Nat.le_sub_one_of_lt (cursorIndex_lt s)⟩, fun s => ?_⟩
  simp only [position_ctr, position_off]
  decide

end Sys2Proof.Proofs

/-!
PROOF. What unread bytes of a frame do, the illegal opcodes and the layout of a response (spec/30_encoding.md rules R62
to R68, R72; spec/60_exceptions.md rule R174).
-/
namespace Sys2Proof.Proofs

open Sys2Proof.Machine Sys2Proof.Safety

/-! ### The seven opcodes -/

/-- The opcodes of rule R66, the list `decode_illegal` speaks of. -/
abbrev legalOpcodes : List Byte := [0x01#8, 0x02#8, 0x10#8, 0x11#8, 0x12#8, 0x13#8, 0x20#8]

theorem mem_legalOpcodes {op : Byte} : op ∈ legalOpcodes ↔
    op = 0x01#8 ∨ op = 0x02#8 ∨ op = 0x10#8 ∨ op = 0x11#8 ∨ op = 0x12#8 ∨ op = 0x13#8 ∨ op = 0x20#8 := by
  simp only [legalOpcodes, List.mem_cons, List.not_mem_nil, or_false]

theorem decode_legal {f : Frame} (h : fieldOp f ∈ legalOpcodes) : ∃ i, decode f = .ok i := by
  rcases mem_legalOpcodes.mp h with h | h | h | h | h | h | h
  · exact ⟨_, decode_qr h⟩
  · exact ⟨_, decode_block h⟩
  · exact ⟨_, decode_new h⟩
  · exact ⟨_, decode_seek h⟩
  · exact ⟨_, decode_xorb h⟩
  · exact ⟨_, decode_nextb h⟩
  · exact ⟨_, decode_rdst h⟩

/-! ### The bytes a format reads -/

theorem formatReads_qr (k : Nat) : formatReads 0x01#8 k = true ↔ k = 0 ∨ 4 ≤ k ∧ k < 20 := by simp [formatReads]

theorem formatReads_block (k : Nat) : formatReads 0x02#8 k = true ↔ k = 0 ∨ 4 ≤ k ∧ k < 52 := by simp [formatReads]

theorem formatReads_new (k : Nat) :
    formatReads 0x10#8 k = true ↔ k = 0 ∨ k = 1 ∨ k = 2 ∨ 4 ≤ k ∧ k < 56 := by simp [formatReads, or_assoc]

theorem formatReads_seek (k : Nat) : formatReads 0x11#8 k = true ↔ k = 0 ∨ 48 ≤ k ∧ k < 56 := by simp [formatReads]

theorem formatReads_xorb (k : Nat) : formatReads 0x12#8 k = true ↔ k = 0 ∨ k = 3 := by simp [formatReads]

theorem formatReads_zero (op : Byte) : formatReads op 0 = true := by simp [formatReads]

/-! ### Frames that agree on a range of bytes -/

/-- `f` and `g` have the same bytes from index `lo` up to, not including, index `hi`. -/
def SameBytes (f g : Frame) (lo hi : Nat) : Prop :=
  ∀ (k : Nat) (hk : k < 56), lo ≤ k → k < hi → f[k] = g[k]

section Fields

variable {f g : Frame}

theorem SameBytes.mono {lo hi lo' hi' : Nat} (h : SameBytes f g lo hi) (hlo : lo ≤ lo') (hhi : hi' ≤ hi) :
    SameBytes f g lo' hi' :=
  fun k hk hl hh => h k hk (hlo.trans hl) (hh.trans_le hhi)

theorem fieldA_congr (h : SameBytes f g 4 8) : fieldA f = fieldA g := by
  simp only [fieldA, h 4, h 5, h 6, h 7, Nat.reduceLT, Nat.reduceLeDiff]

theorem fieldB_congr (h : SameBytes f g 8 12) : fieldB f = fieldB g := by
  simp only [fieldB, h 8, h 9, h 10, h 11, Nat.reduceLT, Nat.reduceLeDiff]

theorem fieldC_congr (h : SameBytes f g 12 16) : fieldC f = fieldC g := by
  simp only [fieldC, h 12, h 13, h 14, h 15, Nat.reduceLT, Nat.reduceLeDiff]

theorem fieldD_congr (h : SameBytes f g 16 20) : fieldD f = fieldD g := by
  simp only [fieldD, h 16, h 17, h 18, h 19, Nat.reduceLT, Nat.reduceLeDiff]

theorem fieldKey_congr (h : SameBytes f g 4 36) : fieldKey f = fieldKey g :=
  congrArg Vector.ofFn (funext fun i => h (4 + i) (by omega) (by omega) (by omega))

theorem fieldNonce_congr (h : SameBytes f g 36 48) : fieldNonce f = fieldNonce g :=
  congrArg Vector.ofFn (funext fun i => h (36 + i) (by omega) (by omega) (by omega))

theorem fieldCtr32_congr (h : SameBytes f g 48 52) : fieldCtr32 f = fieldCtr32 g := by
  simp only [fieldCtr32, h 48, h 49, h 50, h 51, Nat.reduceLT, Nat.reduceLeDiff]

theorem fieldIdx_congr (h : SameBytes f g 48 56) : fieldIdx f = fieldIdx g := by
  simp only [fieldIdx, h 48, h 49, h 50, h 51, h 52, h 53, h 54, h 55, Nat.reduceLT, Nat.reduceLeDiff]

/-! ### Frames that agree where the format reads decode alike -/

theorem byte_eq_of_agreeWhereRead (h : AgreeWhereRead f g) {op : Byte} (hop : fieldOp f = op) (k : Nat) (hk : k < 56)
    (hr : formatReads op k = true) : f[k] = g[k] :=
  h ⟨k, hk⟩ (by rw [show f[0] = op from hop]; exact hr)

theorem fieldOp_eq_of_agreeWhereRead (h : AgreeWhereRead f g) : fieldOp g = fieldOp f :=
  (byte_eq_of_agreeWhereRead h rfl 0 (by decide) (formatReads_zero _)).symm

theorem decode_eq_of_agreeWhereRead (h : AgreeWhereRead f g) : decode f = decode g := by
  have hg := fieldOp_eq_of_agreeWhereRead h
  by_cases hop : fieldOp f ∈ legalOpcodes
  case neg => rw [decode_illegal hop, decode_illegal (hg ▸ hop), hg]
  have hbyte (op : Byte) (e : fieldOp f = op) := byte_eq_of_agreeWhereRead h e
  rcases mem_legalOpcodes.mp hop with e | e | e | e | e | e | e <;> rw [e] at hg
  · have hs : SameBytes f g 4 20 := fun k hk hl hh =>
      hbyte _ e k hk ((formatReads_qr k).mpr (.inr ⟨hl, hh⟩))
    rw [decode_qr e, decode_qr hg, fieldA_congr (hs.mono (by decide) (by decide)),
      fieldB_congr (hs.mono (by decide) (by decide)), fieldC_congr (hs.mono (by decide) (by decide)),
      fieldD_congr (hs.mono (by decide) (by decide))]
  · have hs : SameBytes f g 4 52 := fun k hk hl hh =>
      hbyte _ e k hk ((formatReads_block k).mpr (.inr ⟨hl, hh⟩))
    rw [decode_block e, decode_block hg, fieldKey_congr (hs.mono (by decide) (by decide)),
      fieldNonce_congr (hs.mono (by decide) (by decide)), fieldCtr32_congr (hs.mono (by decide) (by decide))]
  · have hs : SameBytes f g 4 56 := fun k hk hl hh =>
      hbyte _ e k hk ((formatReads_new k).mpr (.inr (.inr (.inr ⟨hl, hh⟩))))
    have hklen : fieldKlen f = fieldKlen g := hbyte _ e 1 (by decide) (by decide)
    have hnlen : fieldNlen f = fieldNlen g := hbyte _ e 2 (by decide) (by decide)
    rw [decode_new e, decode_new hg, hklen, hnlen, fieldKey_congr (hs.mono (by decide) (by decide)),
      fieldNonce_congr (hs.mono (by decide) (by decide)), fieldIdx_congr (hs.mono (by decide) (by decide))]
  · have hs : SameBytes f g 48 56 := fun k hk hl hh =>
      hbyte _ e k hk ((formatReads_seek k).mpr (.inr ⟨hl, hh⟩))
    rw [decode_seek e, decode_seek hg, fieldIdx_congr hs]
  · have hdata : fieldData f = fieldData g := hbyte _ e 3 (by decide) (by decide)
    rw [decode_xorb e, decode_xorb hg, hdata]
  · rw [decode_nextb e, decode_nextb hg]
  · rw [decode_rdst e, decode_rdst hg]

theorem serveFrame_congr (h : decode f = decode g) (s : State) : serveFrame f s = serveFrame g s := by
  rw [serveFrame, serveFrame, h]

end Fields

/-! ### The zeros of the canonical encoding -/

theorem zeros_getElem (n k : Nat) (h : k < n) : (zeros n)[k] = 0 := by simp [zeros]

/-- A byte of a frame after `OP` is 0 when the part that holds it is 0 there. -/
theorem frameOf_getElem_eq_zero {op klen nlen data : Byte} {area : Vector Byte 32} {nonce : Vector Byte 12}
    {tail : Vector Byte 8} {k : Nat} (hk : k < 56) (h0 : k ≠ 0) (h1 : k = 1 → klen = 0) (h2 : k = 2 → nlen = 0)
    (h3 : k = 3 → data = 0) (harea : ∀ (i : Nat) (_ : i < 32), k = i + 4 → area[i] = 0)
    (hnonce : ∀ (i : Nat) (_ : i < 12), k = i + 36 → nonce[i] = 0)
    (htail : ∀ (i : Nat) (_ : i < 8), k = i + 48 → tail[i] = 0) :
    (frameOf op klen nlen data area nonce tail)[k] = 0 := by
  rw [frameOf_getElem, if_neg h0]
  split_ifs with h1' h2' h3' h4' h5'
  · exact h1 h1'
  · exact h2 h2'
  · exact h3 h3'
  · exact harea _ _ (by omega)
  · exact hnonce _ _ (by omega)
  · exact htail _ _ (by omega)

theorem qrArea_getElem_eq_zero (a b c d : Word) (k : Nat) (h : k < 32) (hk : 16 ≤ k) : (qrArea a b c d)[k] = 0 := by
  rw [qrArea_getElem, dif_neg (by omega), dif_neg (by omega), dif_neg (by omega), dif_neg (by omega)]

theorem ctrTail_getElem_eq_zero (ctr : Word) (k : Nat) (h : k < 8) (hk : 4 ≤ k) : (ctrTail ctr)[k] = 0 := by
  rw [ctrTail_getElem, dif_neg (by omega)]

theorem encode_unread_eq_zero (i : Instr) (k : Nat) (hk : k < 56) (hr : formatReads (opcode i) k = false) :
    (encode i)[k] = 0 := by
  have hread : ¬ formatReads (opcode i) k = true := by simp [hr]
  have h0 : k ≠ 0 := fun h => hread (h ▸ formatReads_zero _)
  cases i with
  | qr a b c d =>
    rw [opcode, formatReads_qr] at hread
    exact frameOf_getElem_eq_zero hk h0 (fun _ => rfl) (fun _ => rfl) (fun _ => rfl)
      (fun j hj _ => qrArea_getElem_eq_zero a b c d j hj (by omega)) (fun j hj _ => zeros_getElem 12 j hj)
      (fun j hj _ => zeros_getElem 8 j hj)
  | block key nonce ctr =>
    rw [opcode, formatReads_block] at hread
    exact frameOf_getElem_eq_zero hk h0 (fun _ => rfl) (fun _ => rfl) (fun _ => rfl)
      (fun j hj _ => by omega) (fun j hj _ => by omega)
      (fun j hj _ => ctrTail_getElem_eq_zero ctr j hj (by omega))
  | new klen nlen key nonce idx =>
    rw [opcode, formatReads_new] at hread
    exact frameOf_getElem_eq_zero hk h0 (by omega) (by omega) (fun _ => rfl)
      (fun j hj _ => by omega) (fun j hj _ => by omega) (fun j hj _ => by omega)
  | seek idx =>
    rw [opcode, formatReads_seek] at hread
    exact frameOf_getElem_eq_zero hk h0 (fun _ => rfl) (fun _ => rfl) (fun _ => rfl)
      (fun j hj _ => zeros_getElem 32 j hj) (fun j hj _ => zeros_getElem 12 j hj) (fun j hj _ => by omega)
  | xorb data =>
    rw [opcode, formatReads_xorb] at hread
    exact frameOf_getElem_eq_zero hk h0 (fun _ => rfl) (fun _ => rfl) (by omega)
      (fun j hj _ => zeros_getElem 32 j hj) (fun j hj _ => zeros_getElem 12 j hj) (fun j hj _ => zeros_getElem 8 j hj)
  | nextb | rdst =>
    exact frameOf_getElem_eq_zero hk h0 (fun _ => rfl) (fun _ => rfl) (fun _ => rfl)
      (fun j hj _ => zeros_getElem 32 j hj) (fun j hj _ => zeros_getElem 12 j hj) (fun j hj _ => zeros_getElem 8 j hj)

/-- Settles O7: each operand is formed from bytes its format reads, `encode` fills the rest with zeros, and a command
that a frame decodes to has the frame's `OP`. -/
theorem unreadBytesIgnored : Obligations.UnreadBytesIgnored := by
  refine ⟨fun f g h => ⟨decode_eq_of_agreeWhereRead h, serveFrame_congr (decode_eq_of_agreeWhereRead h)⟩,
    fun i k hr => encode_unread_eq_zero i k k.isLt hr, fun f g h i j hi hj => ?_⟩
  calc opcode i = fieldOp f := opcode_of_decode hi
    _ = fieldOp g := h
    _ = opcode j := (opcode_of_decode hj).symm

/-! ### Illegal opcodes -/

theorem toNat_mem_of_mem_legalOpcodes {op : Byte} (h : op ∈ legalOpcodes) :
    op.toNat ∈ [0x01, 0x02, 0x10, 0x11, 0x12, 0x13, 0x20] :=
  List.mem_map_of_mem (f := BitVec.toNat) h

/-- What a frame with an illegal opcode is answered, in every state (rules R67, R174). -/
theorem serveFrame_illegal {f : Frame} (h : fieldOp f ∉ legalOpcodes)
    (s : State) :
    serveFrame f s = .next { s with fault := true, lastErr := 0x03, rsp := some (responseOf 0x03 []) } := by
  rw [serveFrame_error (decode_illegal h), raise_eq]
  rfl

/-- Settles O8: no number of the four ranges is one of the seven opcodes, so such a frame is answered by the fault. -/
theorem illegalOpcodesFault : Obligations.IllegalOpcodesFault := by
  refine ⟨fun f s h => serveFrame_illegal (fun hm => ?_) s, fun f h => ?_, by decide +kernel, by decide, by decide⟩
  · have hnat : f[0].toNat ∈ [0x01, 0x02, 0x10, 0x11, 0x12, 0x13, 0x20] := toNat_mem_of_mem_legalOpcodes hm
    simp only [List.mem_cons, List.not_mem_nil, or_false] at hnat
    omega
  · obtain ⟨i, hi⟩ := decode_legal h
    exact ⟨i, hi, opcode_of_decode hi⟩

/-! ### The response frame -/

/-- The reserved bytes of a response (rule R72). -/
theorem responseOf_reserved (code : Byte) (payload : List Byte) (j : Nat) (h0 : j ≠ 0) (h4 : j < 4) :
    (responseOf code payload)[j] = 0 := by
  rw [responseOf_getElem, if_neg h0, if_pos h4]

/-- Byte `i` of the payload field: the payload's, and 0 past its end (rule R72). -/
theorem responseOf_payload_getElem (code : Byte) (payload : List Byte) (i : Nat) (hi : i < 64) :
    (responseOf code payload)[4 + i] = if h : i < payload.length then payload[i] else 0 := by
  rw [responseOf_getElem, if_neg (by omega), if_neg (by omega), Nat.add_sub_cancel_left]
  split_ifs with h <;> simp [h]

theorem errCode_toNat_le (e : ErrCode) : (errCode e).toNat ≤ 4 := by cases e <;> decide

theorem code_toNat_le_of_responseShape {r : Response} (h : ResponseShape r) : r[0].toNat ≤ 4 := by
  obtain ⟨-, -, -, hok | ⟨e, he⟩, -⟩ := h
  · rw [hok]; decide
  · rw [he]; exact errCode_toNat_le e

/-- Every frame, in every state, is answered by a response of the shape of rule R72. -/
theorem serveFrame_responseShape (f : Frame) (s : State) :
    ∃ t r, serveFrame f s = .next t ∧ t.rsp = some r ∧ ResponseShape r := by
  rcases serveFrame_cases f s with ⟨e, he⟩ | ⟨t, payload, ht, -⟩
  · exact ⟨_, _, he, rfl, responseShape_fault e⟩
  · exact ⟨_, _, ht, rfl, responseShape_ok payload⟩

/-- Settles O9, from the bytes of `responseOf` and the two ways a frame is answered. -/
theorem responseFrameLayout : Obligations.ResponseFrameLayout := by
  refine ⟨fun code payload _ => ⟨responseOf_code code payload, ?_, ?_, ?_, fun i => ?_⟩, fun f s => ?_⟩
  · exact responseOf_reserved code payload 1 (by decide) (by decide)
  · exact responseOf_reserved code payload 2 (by decide) (by decide)
  · exact responseOf_reserved code payload 3 (by decide) (by decide)
  · exact responseOf_payload_getElem code payload i i.isLt
  · obtain ⟨t, r, ht, hr, hshape⟩ := serveFrame_responseShape f s
    have hcode := code_toNat_le_of_responseShape hshape
    obtain ⟨h1, h2, h3, -, hpayload⟩ := hshape
    exact ⟨t, r, ht, hr, hcode, h1, h2, h3, hpayload⟩

end Sys2Proof.Proofs

/-!
PROOF. The arithmetic of the quarter-round mixer and the QR command (spec/40_quarter_round.md rules R90 to R95).
-/
namespace Sys2Proof.Proofs

open Sys2Proof.Machine Sys2Proof.Safety

/-! ### Addition and exclusive-or -/

theorem add32_toNat (a b : Word) : (add32 a b).toNat = (a.toNat + b.toNat) % 2 ^ 32 := BitVec.toNat_add a b

theorem xor32_toNat (a b : Word) : (xor32 a b).toNat = a.toNat ^^^ b.toNat := BitVec.toNat_xor a b

/-- The 33-bit sum holds the carry, so its low 32 bits are the reduction modulo `2 ^ 32`. -/
theorem add32_eq_extractLsb (a b : Word) :
    add32 a b = (a.zeroExtend 33 + b.zeroExtend 33).extractLsb' 0 32 := by
  apply BitVec.eq_of_toNat_eq
  rw [add32_toNat, BitVec.extractLsb'_toNat, BitVec.toNat_add, BitVec.toNat_setWidth, BitVec.toNat_setWidth]
  have := a.isLt
  have := b.isLt
  omega

/-- Settles O12: on words the laws are those of addition in `BitVec 32`. -/
theorem additionWraps : Obligations.AdditionWraps :=
  ⟨add32_toNat, add32_eq_extractLsb, BitVec.add_comm, BitVec.add_assoc, BitVec.add_zero,
    BitVec.toInt_add, by decide, by decide, by decide⟩

theorem xor32_cancel (x k : Word) : xor32 (xor32 x k) k = x := by
  rw [xor32, xor32, BitVec.xor_assoc, BitVec.xor_self, BitVec.xor_zero]

/-- Settles O13: bit by bit, `^^^` on words and bytes is exclusive-or. -/
theorem xorIsBitwise : Obligations.XorIsBitwise :=
  ⟨fun _ _ _ _ => BitVec.getLsbD_xor, fun _ _ _ _ => BitVec.getLsbD_xor, fun _ => BitVec.xor_self,
    fun _ => BitVec.xor_zero, xor32_cancel, by decide⟩

/-! ### Rotation -/

/-- For the amounts of rule R92 `rotl32` is the library's rotation. -/
theorem rotl32_eq_rotateLeft (x : Word) {n : Nat} (hn : n < 32) : rotl32 x n = x.rotateLeft n := by
  rw [BitVec.rotateLeft_def, Nat.mod_eq_of_lt hn, rotl32]

/-- Bit `j` of the result comes from bit `j - n`, counted around the end of the word. -/
theorem rotl32_getLsbD (x : Word) {n j : Nat} (hn : n < 32) (hj : j < 32) :
    (rotl32 x n).getLsbD j = x.getLsbD (if j < n then 32 - n + j else j - n) := by
  rw [rotl32_eq_rotateLeft x hn, BitVec.getLsbD_rotateLeft, Nat.mod_eq_of_lt hn]
  by_cases h : j < n <;> simp [h, hj]

theorem rotl32_getLsbD_add_mod (x : Word) {n i : Nat} (hn : n < 32) (hi : i < 32) :
    (rotl32 x n).getLsbD ((i + n) % 32) = x.getLsbD i := by
  rw [rotl32_getLsbD x hn (Nat.mod_lt _ (by decide))]
  congr 1
  split_ifs <;> omega

/-- A word whose 32 bits are all alike is fixed by every rotation. -/
theorem rotl32_eq_self {x : Word} {v : Bool} (hx : ∀ j, j < 32 → x.getLsbD j = v) {n : Nat} (hn : n < 32) :
    rotl32 x n = x := by
  apply BitVec.eq_of_getLsbD_eq
  intro j hj
  rw [rotl32_getLsbD x hn hj, hx j hj]
  exact hx _ (by split_ifs <;> omega)

/-! ### The lines of the quarter-round -/

theorem quarterRound_eq (a b c d : Word) : quarterRound ⟨a, b, c, d⟩ =
    let l1 := arx a b d 16
    let l2 := arx c l1.2 b 12
    let l3 := arx l1.1 l2.2 l1.2 8
    let l4 := arx l2.1 l3.2 l2.2 7
    ⟨l3.1, l4.2, l4.1, l3.2⟩ := rfl

/-- Settles O14, from the bits of a rotated word. -/
theorem rotationMovesEveryBit : Obligations.RotationMovesEveryBit :=
  ⟨fun x n _ hn => ⟨rotl32_toNat x n hn, fun i hi => rotl32_getLsbD_add_mod x hn hi⟩,
    fun n _ hn => ⟨rotl32_eq_self (v := false) (by decide) hn, rotl32_eq_self (v := true) (by decide) hn⟩,
    by decide, by decide, by decide, by decide, by decide, fun _ _ _ _ => rfl, quarterRound_eq⟩

/-- The two shifted parts of a rotated word share no bit, so their bitwise or is their sum. -/
theorem rotl32_toNat_eq_numRotl (x : Word) {n : Nat} (hn : n < 32) : (rotl32 x n).toNat = numRotl x.toNat n := by
  have hpow : 2 ^ 32 = 2 ^ n * 2 ^ (32 - n) := by rw [← Nat.pow_add, Nat.add_sub_cancel' hn.le]
  have hlow : x.toNat / 2 ^ (32 - n) < 2 ^ n := Nat.div_lt_of_lt_mul (by rw [Nat.mul_comm, ← hpow]; exact x.isLt)
  rw [rotl32_toNat x n hn, numRotl, hpow, Nat.mul_comm x.toNat, Nat.mul_mod_mul_left]
  exact (Nat.two_pow_add_eq_or_of_lt hlow _).symm

theorem arx_fst_toNat (p q s : Word) (n : Nat) : (arx p q s n).1.toNat = numAdd p.toNat q.toNat :=
  add32_toNat p q

theorem arx_snd_toNat (p q s : Word) {n : Nat} (hn : n < 32) :
    (arx p q s n).2.toNat = numRotl (s.toNat ^^^ numAdd p.toNat q.toNat) n := by
  rw [arx, rotl32_toNat_eq_numRotl _ hn, xor32_toNat, add32_toNat, numAdd]

theorem lt_of_mem_amounts {n : Nat} (h : n ∈ [16, 12, 8, 7]) : n < 32 := by
  revert n
  decide

theorem quarterRound_toNat (a b c d : Word) :
    ((quarterRound ⟨a, b, c, d⟩).a.toNat, (quarterRound ⟨a, b, c, d⟩).b.toNat,
      (quarterRound ⟨a, b, c, d⟩).c.toNat, (quarterRound ⟨a, b, c, d⟩).d.toNat) =
      numQuarterRound a.toNat b.toNat c.toNat d.toNat := by
  simp only [quarterRound_eq, arx_fst_toNat, arx_snd_toNat, Nat.reduceLT, numQuarterRound]

/-- Settles O15: every line is `numAdd` and `numRotl` on numbers, and the quarter-round is its four lines. -/
theorem quarterRoundFollowsTheSource : Obligations.QuarterRoundFollowsTheSource :=
  ⟨fun p q s n h => ⟨arx_fst_toNat p q s n, arx_snd_toNat p q s (lt_of_mem_amounts h)⟩, by decide,
    quarterRound_toNat, by decide⟩

/-! ### The QR command -/

theorem exec_qr (a b c d : Word) (s : State) :
    exec (.qr a b c d) s =
      .next { s with rsp := some (responseOf codeOk (quadBytes (quarterRound ⟨a, b, c, d⟩))) } := rfl

/-- A response is its code, three zeros and the payload, padded to 68 bytes (rule R72). -/
theorem responseOf_eq_padBytes (code : Byte) (payload : List Byte) :
    responseOf code payload = padBytes 68 (code :: 0 :: 0 :: 0 :: payload) := by
  apply Vector.ext
  intro j hj
  rw [responseOf_getElem, padBytes, Vector.getElem_ofFn]
  match j with
  | 0 | 1 | 2 | 3 => rfl
  | j + 4 => simp

/-- The frame of rule R95's example. -/
def qrExampleFrame : Frame :=
  padBytes 56 [0x01, 0, 0, 0, 0x11, 0x11, 0x11, 0x11, 0x04, 0x03, 0x02, 0x01,
    0x43, 0x6f, 0x8d, 0x9b, 0x67, 0x45, 0x23, 0x01]

theorem decode_qrExampleFrame :
    decode qrExampleFrame = .ok (.qr 0x11111111 0x01020304 0x9b8d6f43 0x01234567) := by decide +kernel

theorem quarterRound_example :
    quarterRound ⟨0x11111111, 0x01020304, 0x9b8d6f43, 0x01234567⟩ =
      ⟨0xea2a92f4, 0xcb1cf8ce, 0x4581472e, 0x5881c4bb⟩ := by decide

theorem quadBytes_example :
    quadBytes ⟨0xea2a92f4, 0xcb1cf8ce, 0x4581472e, 0x5881c4bb⟩ =
      [0xF4, 0x92, 0x2A, 0xEA, 0xCE, 0xF8, 0x1C, 0xCB, 0x2E, 0x47, 0x81, 0x45, 0xBB, 0xC4, 0x81, 0x58] := by decide

theorem serveFrame_qrExampleFrame (s : State) :
    serveFrame qrExampleFrame s =
      .next { s with rsp := some (padBytes 68 [0, 0, 0, 0, 0xF4, 0x92, 0x2A, 0xEA, 0xCE, 0xF8, 0x1C, 0xCB,
        0x2E, 0x47, 0x81, 0x45, 0xBB, 0xC4, 0x81, 0x58]) } := by
  rw [serveFrame_ok decode_qrExampleFrame, exec_qr, quarterRound_example, quadBytes_example, responseOf_eq_padBytes]
  rfl

/-- Settles O17: QR only presents its response, and the example frame is one that decodes to QR. -/
theorem qrAnswersTheQuarterRound : Obligations.QrAnswersTheQuarterRound :=
  ⟨exec_qr, fun _ h => decode_qr h, serveFrame_qrExampleFrame⟩

end Sys2Proof.Proofs

/-!
PROOF. The initial matrix, the quarter-round in place and the BLOCK command (spec/41_block_transform.md rules R110 to
R114, R121, R122).
-/
namespace Sys2Proof.Proofs

open Sys2Proof.Machine Sys2Proof.Safety

/-! ### The initial matrix -/

theorem keyWords_getElem (key : KeyBytes) (i : Fin 8) :
    (keyWords key)[i] = le32 key[4 * i.val] key[4 * i.val + 1] key[4 * i.val + 2] key[4 * i.val + 3] := by
  simp [keyWords]

theorem nonceWords_getElem (nonce : NonceBytes) (i : Fin 3) :
    (nonceWords nonce)[i] =
      le32 nonce[4 * i.val] nonce[4 * i.val + 1] nonce[4 * i.val + 2] nonce[4 * i.val + 3] := by
  simp [nonceWords]

/-- The key words fill rows 1 and 2 in ascending order (rule R111). -/
theorem initMatrix_key (k : KeyWords) (n : NonceWords) (ctr : Word) (i : Fin 8) :
    (initMatrix k n ctr)[4 + i.val] = k[i] := by
  match i with
  | 0 | 1 | 2 | 3 | 4 | 5 | 6 | 7 => rfl

/-- The nonce words fill row 3 after the counter (rule R111). -/
theorem initMatrix_nonce (k : KeyWords) (n : NonceWords) (ctr : Word) (i : Fin 3) :
    (initMatrix k n ctr)[13 + i.val] = n[i] := by
  match i with
  | 0 | 1 | 2 => rfl

/-- The key of the example of rule R112 and of the known vector of rule R121. -/
def exampleKey : KeyBytes := Vector.ofFn fun i : Fin 32 => BitVec.ofNat 8 i.val

/-- The nonce of the example of rule R112 and of the known vector of rule R121. -/
def exampleNonce : NonceBytes := #v[0, 0, 0, 0, 0, 0, 0, 0x4a, 0, 0, 0, 0]

/-- The example matrix of rule R112. -/
def exampleInitial : Matrix :=
  #v[0x61707865, 0x3320646e, 0x79622d32, 0x6b206574, 0x03020100, 0x07060504, 0x0b0a0908, 0x0f0e0d0c,
     0x13121110, 0x17161514, 0x1b1a1918, 0x1f1e1d1c, 0x00000001, 0x00000000, 0x4a000000, 0x00000000]

theorem initMatrix_example : initMatrix (keyWords exampleKey) (nonceWords exampleNonce) 1 = exampleInitial := by
  decide +kernel

/-- Settles O18: a word of rows 1 to 3 is a key or nonce word, and that is four bytes of the key or nonce. -/
theorem initialMatrixLayout : Obligations.InitialMatrixLayout := by
  refine ⟨by decide, fun key nonce ctr => ⟨rfl, rfl, rfl, rfl, fun i => ?_, rfl, fun i => ?_⟩, initMatrix_example⟩
  · rw [initMatrix_key, keyWords_getElem]
  · rw [initMatrix_nonce, nonceWords_getElem]

/-! ### The quarter-round in place -/

section QrAt

variable {t : Tuple}

/-- The four values of `qrAt`, by the position of the word in the tuple: with distinct indices no write hits the word
of an earlier one. -/
theorem qrAt_tuple (ht : [t.i, t.j, t.k, t.l].Nodup) (x : Matrix) :
    (qrAt t x)[t.i] = (quarterRound ⟨x[t.i], x[t.j], x[t.k], x[t.l]⟩).a ∧
    (qrAt t x)[t.j] = (quarterRound ⟨x[t.i], x[t.j], x[t.k], x[t.l]⟩).b ∧
    (qrAt t x)[t.k] = (quarterRound ⟨x[t.i], x[t.j], x[t.k], x[t.l]⟩).c ∧
    (qrAt t x)[t.l] = (quarterRound ⟨x[t.i], x[t.j], x[t.k], x[t.l]⟩).d := by
  simp only [List.nodup_cons, List.mem_cons, List.not_mem_nil, or_false, not_or] at ht
  obtain ⟨⟨hij, hik, hil⟩, ⟨hjk, hjl⟩, hkl, -⟩ := ht
  refine ⟨?_, ?_, ?_, ?_⟩
  · rw [qrAt_getElem, if_neg (Ne.symm hil), if_neg (Ne.symm hik), if_neg (Ne.symm hij), if_pos rfl]
  · rw [qrAt_getElem, if_neg (Ne.symm hjl), if_neg (Ne.symm hjk), if_pos rfl]
  · rw [qrAt_getElem, if_neg (Ne.symm hkl), if_pos rfl]
  · rw [qrAt_getElem, if_pos rfl]

theorem qrAt_getElem_of_notMem {m : Fin 16} (hm : m ∉ [t.i, t.j, t.k, t.l]) (x : Matrix) :
    (qrAt t x)[m] = x[m] := by
  simp only [List.mem_cons, List.not_mem_nil, or_false, not_or] at hm
  obtain ⟨hi, hj, hk, hl⟩ := hm
  rw [qrAt_getElem, if_neg (Ne.symm hl), if_neg (Ne.symm hk), if_neg (Ne.symm hj), if_neg (Ne.symm hi)]

end QrAt

/-- Index `r` of the tuple lies in row `r` of the matrix flattened row-major (rule R111). -/
def OneInEachRow (t : Tuple) : Prop :=
  t.i.val / 4 = 0 ∧ t.j.val / 4 = 1 ∧ t.k.val / 4 = 2 ∧ t.l.val / 4 = 3

theorem oneInEachRow_columnTuple (lane : Fin 4) : OneInEachRow (columnTuple lane) := by
  match lane with
  | 0 | 1 | 2 | 3 => exact ⟨rfl, rfl, rfl, rfl⟩

theorem oneInEachRow_diagonalTuple (lane : Fin 4) : OneInEachRow (diagonalTuple lane) := by
  match lane with
  | 0 | 1 | 2 | 3 => exact ⟨rfl, rfl, rfl, rfl⟩

/-- Settles O19, from the one of the four writes that hits a word last. -/
theorem qrAtTouchesItsTuple : Obligations.QrAtTouchesItsTuple := by
  refine ⟨fun t x ht => ?_, fun lane => ?_⟩
  · obtain ⟨ha, hb, hc, hd⟩ := qrAt_tuple ht x
    exact ⟨ha, hb, hc, hd, fun m hm => qrAt_getElem_of_notMem hm x⟩
  · simp only [List.forall_mem_cons, List.not_mem_nil, false_implies, implies_true, and_true]
    exact ⟨oneInEachRow_columnTuple lane, oneInEachRow_diagonalTuple lane⟩

/-! ### The BLOCK command -/

theorem exec_block (key : KeyBytes) (nonce : NonceBytes) (ctr : Word) (s : State) :
    exec (.block key nonce ctr) s =
      .next { s with
        x := finalMatrix (keyWords key) (nonceWords nonce) ctr
        o := initMatrix (keyWords key) (nonceWords nonce) ctr
        rsp := some (responseOf codeOk (blockOf (keyWords key) (nonceWords nonce) ctr).toList) } := by
  rw [blockOf_eq]
  rfl

/-- The matrix after the tenth double-round in the worked example of rule R121. -/
def exampleMixed : Matrix :=
  #v[0x91e0d6bd, 0xaeb8b6d2, 0xf5c5b0fd, 0x81fcfe44, 0x7f1d128c, 0xdb002739, 0xe1c04676, 0x69c1e692,
     0x8ff82a7a, 0x7af44b5e, 0xb25a609d, 0x15750ed1, 0x40ba4c78, 0xcd343ec6, 0x022c21ea, 0xb7417df0]

/-- The matrix after the final addition in the worked example of rule R121. -/
def exampleFinal : Matrix :=
  #v[0xf3514f22, 0xe1d91b40, 0x6f27de2f, 0xed1d63b8, 0x821f138c, 0xe2062c3d, 0xecca4f7e, 0x78cff39e,
     0xa30a3b8a, 0x920a6072, 0xcd7479b5, 0x34932bed, 0x40ba4c79, 0xcd343ec6, 0x4c2c21ea, 0xb7417df0]

/-- The known vector of rule R121. -/
def exampleBlock : Block :=
  #v[0x22, 0x4f, 0x51, 0xf3, 0x40, 0x1b, 0xd9, 0xe1, 0x2f, 0xde, 0x27, 0x6f, 0xb8, 0x63, 0x1d, 0xed,
     0x8c, 0x13, 0x1f, 0x82, 0x3d, 0x2c, 0x06, 0xe2, 0x7e, 0x4f, 0xca, 0xec, 0x9e, 0xf3, 0xcf, 0x78,
     0x8a, 0x3b, 0x0a, 0xa3, 0x72, 0x60, 0x0a, 0x92, 0xb5, 0x79, 0x74, 0xcd, 0xed, 0x2b, 0x93, 0x34,
     0x79, 0x4c, 0xba, 0x40, 0xc6, 0x3e, 0x34, 0xcd, 0xea, 0x21, 0x2c, 0x4c, 0xf0, 0x7d, 0x41, 0xb7]

theorem rounds_example : rounds exampleInitial = exampleMixed := by decide +kernel

theorem finalAdd_example : finalAdd exampleMixed exampleInitial = exampleFinal := by decide +kernel

theorem serialise_example : serialise exampleFinal = exampleBlock := by decide +kernel

/-- The worked example of rule R121, from its intermediate matrices. -/
theorem blockOf_example : blockOf (keyWords exampleKey) (nonceWords exampleNonce) 1 = exampleBlock := by
  rw [blockOf_eq, finalMatrix_eq, initMatrix_example, rounds_example, finalAdd_example, serialise_example]

/-- Settles O24: the model leaves the final and the initial matrix in `X` and `O`. -/
theorem blockAnswersTheTransform : Obligations.BlockAnswersTheTransform :=
  ⟨fun key nonce ctr s => ⟨_, _, exec_block key nonce ctr s⟩, fun _ h => decode_block h, blockOf_example⟩

end Sys2Proof.Proofs

/-!
PROOF. The cursor one byte forward, and the commands that move the counter (spec/42_keystream_cursor.md rules R135 to
R137).
-/
namespace Sys2Proof.Proofs

open Sys2Proof.Machine Sys2Proof.Safety

/-! ### One byte forward -/

theorem advance_last {s : State} (h : s.off = 63#6) :
    advance s = { s with off := 0, ctr := add32 s.ctr 1, ksbValid := false } := if_pos h

theorem advance_inner {s : State} (h : s.off ≠ 63#6) : advance s = { s with off := s.off + 1 } := if_neg h

/-- The carry out of the offset is the increment of the counter, so the two together count bytes modulo `2 ^ 38`. -/
theorem cursorIndex_advance (s : State) : cursorIndex (advance s) = (cursorIndex s + 1) % 2 ^ 38 := by
  have hctr := s.ctr.isLt
  have hoff := s.off.isLt
  by_cases h : s.off = 63#6
  · have hval : s.off.toNat = 63 := congrArg BitVec.toNat h
    have hzero : (0 : Offset).toNat = 0 := rfl
    have hone : (1 : Word).toNat = 1 := rfl
    simp only [advance_last h, cursorIndex, add32_toNat, hval, hzero, hone]
    omega
  · have hval : s.off.toNat ≠ 63 := fun e => h (BitVec.eq_of_toNat_eq e)
    have hlt : s.off.toNat + 1 < 2 ^ 6 := by omega
    have hnext : (s.off + 1).toNat = s.off.toNat + 1 := BitVec.toNat_add_of_lt hlt
    simp only [advance_inner h, cursorIndex, hnext]
    omega

/-! ### The commands that move the counter -/

/-- A byte request that changes the counter took the last byte of a block. -/
theorem nextByte_of_ctr_ne {s : State} (h : (nextByte s).2.ctr ≠ s.ctr) :
    s.off = 63#6 ∧ (nextByte s).2.ctr = add32 s.ctr 1 ∧ (nextByte s).2.ksbValid = false := by
  rw [nextByte_eq] at h ⊢
  by_cases h63 : s.off = 63#6
  · exact ⟨h63, if_pos h63, if_pos h63⟩
  · exact absurd (if_neg h63) h

/-- What XORB and NEXTB leave: the fault of an engine that is not configured, or one byte request and a response. -/
theorem exec_byte_next {i : Instr} {s t : State} (hi : opcode i ∈ [0x12#8, 0x13#8]) (h : exec i s = .next t) :
    t = raise .notConfigured s ∨ ∃ payload, t = respond codeOk payload (nextByte s).2 := by
  cases i with
  | xorb data =>
    simp only [exec, execXorb] at h
    split at h
    · exact .inl (Host.Outcome.next.inj h).symm
    · exact .inr ⟨_, (Host.Outcome.next.inj h).symm⟩
  | nextb =>
    simp only [exec, execNextb] at h
    split at h
    · exact .inl (Host.Outcome.next.inj h).symm
    · exact .inr ⟨_, (Host.Outcome.next.inj h).symm⟩
  | qr | block | new | seek | rdst => simp [opcode] at hi

theorem exec_byte_of_ctr_ne {i : Instr} {s t : State} (hi : opcode i ∈ [0x12#8, 0x13#8]) (h : exec i s = .next t)
    (hne : t.ctr ≠ s.ctr) : s.off = 63#6 ∧ t.ctr = add32 s.ctr 1 ∧ t.ksbValid = false := by
  rcases exec_byte_next hi h with rfl | ⟨payload, rfl⟩
  · exact absurd rfl hne
  · exact nextByte_of_ctr_ne hne

/-- Settles O30: QR, BLOCK and RDST do not touch the cursor, NEW and SEEK are named, and the two byte commands move it
by a byte request. -/
theorem advanceMovesOneByte : Obligations.AdvanceMovesOneByte := by
  refine ⟨fun s h => advance_last h, fun s h => advance_inner h, cursorIndex_advance, fun s hctr hoff => ?_,
    fun i s t h hne => ?_⟩
  · have hwrap : add32 0xFFFFFFFF 1 = 0 := by decide
    rw [advance_last hoff, hctr, hwrap]
    exact ⟨rfl, rfl⟩
  · cases i with
    | qr | block | rdst => exact absurd (Host.Outcome.next.inj h ▸ rfl) hne
    | new | seek => exact .inl (by simp [opcode])
    | xorb | nextb => exact .inr ⟨by simp [opcode], exec_byte_of_ctr_ne (by simp [opcode]) h hne⟩

end Sys2Proof.Proofs

/-!
PROOF. The command layer: NEW, SEEK, XORB, NEXTB and RDST (spec/43_cipher_engine.md rules R150 to R153, R156).
-/
namespace Sys2Proof.Proofs

open Sys2Proof.Machine Sys2Proof.Safety

/-! ### NEW -/

/-- With both lengths right NEW writes six registers and its response (rule R150). -/
theorem exec_new (key : KeyBytes) (nonce : NonceBytes) (idx : Index) (s : State) :
    exec (.new 32 12 key nonce idx) s =
      .next { s with
        k := keyWords key
        n := nonceWords nonce
        ctr := idxCounter idx
        off := idxOffset idx
        ksbValid := false
        configured := true
        rsp := some (responseOf codeOk []) } := rfl

theorem exec_new_of_klen_ne {klen : Byte} (h : klen ≠ 32) (nlen : Byte) (key : KeyBytes) (nonce : NonceBytes)
    (idx : Index) (s : State) : exec (.new klen nlen key nonce idx) s = .next (raise .invalidKeyLength s) :=
  if_pos h

theorem exec_new_of_nlen_ne {nlen : Byte} (h : nlen ≠ 12) (key : KeyBytes) (nonce : NonceBytes) (idx : Index)
    (s : State) : exec (.new 32 nlen key nonce idx) s = .next (raise .invalidNonceLength s) := by
  rw [exec, execNew, if_neg (not_not.mpr rfl), if_pos h]

/-- What a successful NEW writes does not depend on the state it finds. -/
theorem exec_new_twice {key : KeyBytes} {nonce : NonceBytes} {idx : Index} {s t : State}
    (h : exec (.new 32 12 key nonce idx) s = .next t) : exec (.new 32 12 key nonce idx) t = .next t := by
  rw [exec_new, outcome_next_inj] at h
  rw [exec_new, ← h]

theorem keyWords_exampleKey : keyWords exampleKey =
    #v[0x03020100, 0x07060504, 0x0B0A0908, 0x0F0E0D0C, 0x13121110, 0x17161514, 0x1B1A1918, 0x1F1E1D1C] := by
  decide +kernel

theorem nonceWords_exampleNonce : nonceWords exampleNonce = #v[0x00000000, 0x4A000000, 0x00000000] := by
  decide +kernel

theorem idxCounter_example : idxCounter 64 = 1 := by decide

theorem idxOffset_example : idxOffset 64 = 0 := by decide

/-- Settles O31: the checks of the two lengths stand before every write. -/
theorem newConstructsAnInstance : Obligations.NewConstructsAnInstance :=
  ⟨exec_new, fun _ nlen key nonce idx s h => exec_new_of_klen_ne h nlen key nonce idx s,
    fun _ key nonce idx s h => exec_new_of_nlen_ne h key nonce idx s, fun _ _ _ _ _ h => exec_new_twice h,
    fun _ h => decode_new h,
    fun s => ⟨_, exec_new exampleKey exampleNonce 64 s, keyWords_exampleKey, nonceWords_exampleNonce,
      idxCounter_example, idxOffset_example, rfl, rfl⟩⟩

/-! ### The commands that need a configured engine -/

/-- Before the first NEW has succeeded, SEEK, XORB and NEXTB fault (rules R151 to R153). -/
theorem exec_unconfigured {i : Instr} {s : State} (hi : opcode i ∈ [0x11#8, 0x12#8, 0x13#8])
    (h : s.configured = false) : exec i s = .next (raise .notConfigured s) := by
  cases i with
  | seek | xorb | nextb => exact if_pos h
  | qr | block | new | rdst => simp [opcode] at hi

section Configured

variable {s : State} (h : s.configured = true)
include h

theorem exec_seek (idx : Index) : exec (.seek idx) s =
    .next { s with
      ctr := idxCounter idx
      off := idxOffset idx
      ksbValid := s.ksbValid && (s.ksbTag == idxCounter idx)
      rsp := some (responseOf codeOk []) } := by
  rw [exec, execSeek, if_neg (by simp [h]), discardStale_eq]
  rfl

theorem exec_xorb (data : Byte) :
    exec (.xorb data) s = .next (respond codeOk [xor8 data (nextByte s).1] (nextByte s).2) :=
  if_neg (by simp [h])

theorem exec_nextb : exec .nextb s = .next (respond codeOk [(nextByte s).1] (nextByte s).2) :=
  if_neg (by simp [h])

end Configured

/-! ### SEEK -/

/-- SEEK inside the block of the cursor moves `OFF` only, where a valid cache holds that block (rule R151). -/
theorem exec_seek_same_block {idx : Index} {s : State} (h : s.configured = true)
    (htag : s.ksbValid = true → s.ksbTag = s.ctr) (hctr : idxCounter idx = s.ctr) :
    exec (.seek idx) s = .next { s with off := idxOffset idx, rsp := some (responseOf codeOk []) } := by
  have hkeep : (s.ksbValid && (s.ksbTag == s.ctr)) = s.ksbValid := by
    cases hv : s.ksbValid with
    | false => rfl
    | true => simp [htag hv]
  rw [exec_seek h, hctr, hkeep]

/-- SEEK to another block than the cached one drops the cache (rule R151). -/
theorem exec_seek_other_block {idx : Index} {s : State} (h : s.configured = true)
    (htag : s.ksbTag ≠ idxCounter idx) :
    exec (.seek idx) s = .next { s with
      ctr := idxCounter idx, off := idxOffset idx, ksbValid := false, rsp := some (responseOf codeOk []) } := by
  rw [exec_seek h, beq_false_of_ne htag, Bool.and_false]

theorem cacheSound_tag {s : State} (hc : CacheSound s) (hv : s.ksbValid = true) : s.ksbTag = s.ctr :=
  (hc hv).2.1

/-- The two parts of an index that denotes the cursor's byte are `CTR` and `OFF` (rule R43). -/
theorem cursor_eq_of_index {idx : Index} {s : State} (h : idx.toNat % 2 ^ 38 = cursorIndex s) :
    idxCounter idx = s.ctr ∧ idxOffset idx = s.off := by
  have hctr := s.ctr.isLt
  have hoff := s.off.isLt
  rw [cursorIndex] at h
  constructor <;> apply BitVec.eq_of_toNat_eq
  · rw [idxCounter_toNat]
    omega
  · rw [idxOffset_toNat]
    omega

theorem add_multiple_mod (idx : Index) (m : Nat) :
    (idx + BitVec.ofNat 64 (2 ^ 38 * m)).toNat % 2 ^ 38 = idx.toNat % 2 ^ 38 := by
  rw [BitVec.toNat_add, BitVec.toNat_ofNat]
  omega

/-- SEEK depends on its index modulo `2 ^ 38` only (rule R55). -/
theorem exec_seek_congr {i j : Index} (h : i.toNat % 2 ^ 38 = j.toNat % 2 ^ 38) (s : State) :
    exec (.seek i) s = exec (.seek j) s := by
  cases hs : s.configured with
  | false => rw [exec_unconfigured (by simp [opcode]) hs, exec_unconfigured (by simp [opcode]) hs]
  | true => rw [exec_seek hs, exec_seek hs, idxCounter_alias h, idxOffset_alias h]

/-- Settles O33: a sound cache holds the block of the cursor, so SEEK keeps it exactly while the counter stays. -/
theorem seekRepositions : Obligations.SeekRepositions := by
  refine ⟨fun idx s h => exec_seek h idx, fun idx s h => exec_unconfigured (by simp [opcode]) h,
    fun f h => decode_seek h, fun idx s hc hv hidx => ?_, fun idx s hc h hidx => ?_,
    fun idx m s => exec_seek_congr (add_multiple_mod idx m) s, fun s h hctr hoff hv htag => ⟨?_, ?_⟩⟩
  · exact exec_seek_same_block (hc hv).1 (cacheSound_tag hc) (hidx.trans (cacheSound_tag hc hv))
  · obtain ⟨hctr, hoff⟩ := cursor_eq_of_index hidx
    rw [exec_seek_same_block h (cacheSound_tag hc) hctr, hoff]
    rfl
  · have hcursor : idxCounter 64 = s.ctr := hctr ▸ by decide
    exact exec_seek_same_block h (fun _ => htag.trans hctr.symm) hcursor
  · have hother : s.ksbTag ≠ idxCounter 42 := htag ▸ by decide
    exact exec_seek_other_block h hother

/-! ### XORB -/

/-- Everything XORB leaves in a configured state (rule R152). -/
theorem exec_xorb_eq {s : State} (h : s.configured = true) (data : Byte) :
    exec (.xorb data) s = .next { s with
      x := if cacheHit s then s.x else finalMatrix s.k s.n s.ctr
      o := if cacheHit s then s.o else initMatrix s.k s.n s.ctr
      ksb := if cacheHit s then s.ksb else blockOf s.k s.n s.ctr
      ksbTag := s.ctr
      ksbValid := !(s.off == 63#6)
      ctr := if s.off == 63#6 then s.ctr + 1 else s.ctr
      off := s.off + 1
      rsp := some (responseOf codeOk
        [data ^^^ (if cacheHit s then s.ksb else blockOf s.k s.n s.ctr)[s.off.toNat]]) } := by
  rw [exec_xorb h, nextByte_eq]
  by_cases h63 : s.off = 63#6
  · simp only [h63]
    rfl
  · simp only [h63, beq_false_of_ne h63]
    rfl

/-- The engine of the example of rules R150, R152 and R153, with the cursor at byte `j` of block 1. -/
structure ExampleAt (j : Offset) (s : State) : Prop where
  configured : s.configured = true
  key : s.k = keyWords exampleKey
  nonce : s.n = nonceWords exampleNonce
  ctr : s.ctr = 1
  off : s.off = j
  sound : CacheSound s

theorem exampleAt_new {s t : State} (h : exec (.new 32 12 exampleKey exampleNonce 64) s = .next t) :
    ExampleAt 0 t := by
  rw [exec_new, outcome_next_inj] at h
  subst h
  exact ⟨rfl, rfl, rfl, idxCounter_example, idxOffset_example, fun hv => by cases hv⟩

theorem nextByte_exampleAt {j : Offset} {s : State} (h : ExampleAt j s) :
    (nextByte s).1 = exampleBlock[j.toNat] := by
  rw [nextByte_eq]
  simp only [block_at_cursor h.sound]
  simp only [h.key, h.nonce, h.ctr, h.off, blockOf_example]

/-- XORB in the example's engine, before the last byte of the block. -/
theorem exec_xorb_exampleAt {j : Offset} {s : State} (h : ExampleAt j s) (hj : j ≠ 63#6) (data : Byte) :
    ∃ t, exec (.xorb data) s = .next t ∧ t.rsp = some (responseOf codeOk [xor8 data exampleBlock[j.toNat]]) ∧
      t.ksbValid = true ∧ ExampleAt (j + 1) t := by
  obtain ⟨hk, hn, hconf, -⟩ := nextByte_frame s
  have hoff : s.off ≠ 63#6 := h.off.trans_ne hj
  have hsound := nextByte_sound h.sound h.configured
  refine ⟨_, exec_xorb h.configured data, ?_, ?_, hconf.trans h.configured, hk.trans h.key, hn.trans h.nonce, ?_, ?_,
    hsound⟩
  · rw [respond_rsp, nextByte_exampleAt h]
  · rw [respond_ksbValid, nextByte_eq]
    exact if_neg hoff
  · rw [respond_ctr, nextByte_eq]
    exact (if_neg hoff).trans h.ctr
  · rw [respond_off, nextByte_eq, ← h.off]

/-- Settles O34, from the one state that XORB leaves; in the example the cache is sound, so its bytes are those of
the known vector. -/
theorem xorbAppliesOneByte : Obligations.XorbAppliesOneByte := by
  refine ⟨fun data s h => ⟨_, _, fun hit => ⟨if_pos hit, if_pos hit⟩, exec_xorb_eq h data⟩,
    fun data s h => exec_unconfigured (by simp [opcode]) h, fun f h => decode_xorb h,
    fun z => ⟨BitVec.zero_xor, BitVec.allOnes_xor⟩, fun data s h hctr hoff => ?_, fun s t h => ?_⟩
  · refine ⟨_, exec_xorb_eq h data, ?_, ?_, rfl, rfl⟩
    · simp only [hoff, hctr]
      decide
    · simp only [hoff]
      decide
  · obtain ⟨u, hu, hrsp, hvalid, hat⟩ := exec_xorb_exampleAt (exampleAt_new h) (by decide) 0x4C
    obtain ⟨-, htag, hksb⟩ := hat.sound hvalid
    rw [hat.key, hat.nonce, hat.ctr, blockOf_example] at hksb
    refine ⟨u, hu, hrsp, ?_, hat.ctr, hat.off, hvalid, htag.trans hat.ctr⟩
    rw [hksb]
    rfl

/-! ### NEXTB -/

theorem zero_xor8 (z : Byte) : xor8 0 z = z := BitVec.zero_xor

theorem exec_nextb_eq_xorb (s : State) : exec .nextb s = exec (.xorb 0) s := by
  cases h : s.configured with
  | false => rw [exec_unconfigured (by simp [opcode]) h, exec_unconfigured (by simp [opcode]) h]
  | true => rw [exec_nextb h, exec_xorb h, zero_xor8]

theorem cursorIndex_nextByte (s : State) : cursorIndex (nextByte s).2 = (cursorIndex s + 1) % 2 ^ 38 := by
  have hfill : cursorIndex (fill s) = cursorIndex s := by rw [fill_eq]; rfl
  rw [nextByte, cursorIndex_advance, hfill]

theorem exec_nextb_exampleAt {j : Offset} {s : State} (h : ExampleAt j s) (hj : j ≠ 63#6) :
    ∃ t, exec .nextb s = .next t ∧ t.rsp = some (responseOf codeOk [exampleBlock[j.toNat]]) ∧
      ExampleAt (j + 1) t := by
  obtain ⟨t, ht, hrsp, -, hat⟩ := exec_xorb_exampleAt h hj 0
  rw [zero_xor8] at hrsp
  exact ⟨t, (exec_nextb_eq_xorb s).trans ht, hrsp, hat⟩

/-- Settles O35: exclusive-or with 0 answers the byte itself; the example is three byte requests from the state NEW
leaves. -/
theorem nextbReturnsTheByte : Obligations.NextbReturnsTheByte := by
  refine ⟨exec_nextb_eq_xorb, fun s h => ⟨exec_nextb h, cursorIndex_nextByte s⟩,
    fun s h => exec_unconfigured (by simp [opcode]) h, fun f h => decode_nextb h, fun s t h => ?_⟩
  obtain ⟨t1, h1, r1, at1⟩ := exec_nextb_exampleAt (exampleAt_new h) (by decide)
  obtain ⟨t2, h2, r2, at2⟩ := exec_nextb_exampleAt at1 (by decide)
  obtain ⟨t3, h3, r3, at3⟩ := exec_nextb_exampleAt at2 (by decide)
  refine ⟨?_, t3, ?_, at3.ctr, at3.off⟩
  · simp only [responsesOf, h1, h2, h3, r1, r2, r3]
    rfl
  · simp only [runCommands, h1, h2, h3]

/-! ### RDST -/

theorem flagBit_getLsbD (b : Bool) {position : Nat} (hp : position < 8) (i : Nat) :
    (flagBit b position).getLsbD i = (b && decide (position = i)) := by
  cases b with
  | false => exact BitVec.getLsbD_zero
  | true => simp [flagBit, BitVec.getLsbD_twoPow, hp]

theorem statusFlags_getLsbD (s : State) (i : Nat) :
    (statusFlags s).getLsbD i =
      ((s.configured && decide (0 = i)) || (s.ksbValid && decide (1 = i)) || (s.fault && decide (2 = i))) := by
  simp only [statusFlags, BitVec.getLsbD_or, flagBit_getLsbD, Nat.reduceLT]

/-- The status view as an array, byte by byte (rule R156). -/
def statusBytes (s : State) : Vector Byte 12 := ⟨⟨statusView s⟩, rfl⟩

theorem exec_rdst (s : State) :
    exec .rdst s = .next { s with rsp := some (responseOf codeOk (statusBytes s).toList) } := rfl

/-- Settles O37: the view is the flags, three bytes and two words, each word read back from its four bytes. -/
theorem rdstReportsTheStatus : Obligations.RdstReportsTheStatus := by
  refine ⟨fun s => ⟨statusBytes s, exec_rdst s, ?_, ?_, ?_, fun i hi => ?_, rfl, ?_, rfl, le32_bytesLe32 s.ctr,
    le32_bytesLe32 s.ksbTag⟩, fun f h => decode_rdst h, ?_, fun s hconf hvalid hfault herr hoff hctr htag => ?_⟩
  · exact (statusFlags_getLsbD s 0).trans (by simp)
  · exact (statusFlags_getLsbD s 1).trans (by simp)
  · exact (statusFlags_getLsbD s 2).trans (by simp)
  · refine (statusFlags_getLsbD s i).trans ?_
    simp [show 0 ≠ i by omega, show 1 ≠ i by omega, show 2 ≠ i by omega]
  · exact BitVec.toNat_setWidth_of_le (by decide)
  · have hview : (statusBytes State.reset).toList = List.replicate 12 0 := by decide
    rw [exec_rdst, hview]
    rfl
  · have hview : (statusBytes s).toList = [0x03, 0, 1, 0, 1, 0, 0, 0, 1, 0, 0, 0] := by
      show statusView s = _
      simp only [statusView, statusFlags, hconf, hvalid, hfault, herr, hoff, hctr, htag]
      decide
    rw [exec_rdst, hview]
    rfl

end Sys2Proof.Proofs

/-!
PROOF. The faults: which command raises which, and what a fault leaves (spec/60_exceptions.md rules R171 to R173, R176).
-/
namespace Sys2Proof.Proofs

open Sys2Proof.Machine Sys2Proof.Safety

/-! ### The lengths of NEW -/

/-- Settles O32: the length bytes are words of 8 bits, so a wrong number is a wrong byte, and the key length is checked
first. -/
theorem newRefusesWrongLengths : Obligations.NewRefusesWrongLengths := by
  refine fun klen nlen key nonce idx s => ⟨fun hk => ?_, fun hk hn => ?_⟩
  · have hklen : klen ≠ 32 := fun e => hk (congrArg BitVec.toNat e)
    exact exec_new_of_klen_ne hklen nlen key nonce idx s
  · have hklen : klen = 32 := BitVec.eq_of_toNat_eq hk
    have hnlen : nlen ≠ 12 := fun e => hn (congrArg BitVec.toNat e)
    rw [hklen]
    exact exec_new_of_nlen_ne hnlen key nonce idx s

/-! ### The code a response carries -/

theorem respond_code {code : Byte} {payload : List Byte} {s : State} {r : Response}
    (h : (respond code payload s).rsp = some r) : r[0] = code := by
  rw [respond_rsp, Option.some.injEq] at h
  rw [← h, responseOf_code]

theorem raise_code {e : ErrCode} {s : State} {r : Response} (h : (raise e s).rsp = some r) : r[0] = errCode e :=
  respond_code h

theorem eq_notConfigured_of_errCode {e : ErrCode} (h : errCode e = 0x04) : e = .notConfigured := by
  cases e with
  | notConfigured => rfl
  | invalidKeyLength | invalidNonceLength | illegalCommand => exact absurd h (by decide)

/-- NEW faults with one of its two codes for wrong lengths, or succeeds (rules R150, R175). -/
theorem exec_new_next {klen nlen : Byte} {key : KeyBytes} {nonce : NonceBytes} {idx : Index} {s t : State}
    (h : exec (.new klen nlen key nonce idx) s = .next t) :
    t = raise .invalidKeyLength s ∨ t = raise .invalidNonceLength s ∨ ∃ u, t = respond codeOk [] u := by
  by_cases hk : klen = 32
  · by_cases hn : nlen = 12
    · rw [hk, hn] at h
      exact .inr (.inr ⟨_, (outcome_next_inj.mp h).symm⟩)
    · rw [hk, exec_new_of_nlen_ne hn, outcome_next_inj] at h
      exact .inr (.inl h.symm)
  · rw [exec_new_of_klen_ne hk, outcome_next_inj] at h
    exact .inl h.symm

/-- QR, BLOCK, NEW and RDST succeed, or fault for a cause other than an unconfigured engine (rule R173). -/
theorem exec_engineless_next {i : Instr} {s t : State} (hi : opcode i ∈ [0x01#8, 0x02#8, 0x10#8, 0x20#8])
    (h : exec i s = .next t) :
    (∃ e, e ≠ .notConfigured ∧ t = raise e s) ∨ ∃ payload u, t = respond codeOk payload u := by
  cases i with
  | qr | block | rdst => exact .inr ⟨_, _, (outcome_next_inj.mp h).symm⟩
  | new =>
    rcases exec_new_next h with ht | ht | ⟨u, ht⟩
    · exact .inl ⟨_, by decide, ht⟩
    · exact .inl ⟨_, by decide, ht⟩
    · exact .inr ⟨_, u, ht⟩
  | seek | xorb | nextb => simp [opcode] at hi

/-- Settles O38: the three commands test `CONFIGURED` first, and code 4 is the code of that fault only. -/
theorem engineCommandsNeedAnInstance : Obligations.EngineCommandsNeedAnInstance := by
  refine ⟨fun i s hs hi => exec_unconfigured hi hs, fun i s t hi h r hr hcode => ?_⟩
  rcases exec_engineless_next hi h with ⟨e, he, rfl⟩ | ⟨payload, u, rfl⟩
  · exact he (eq_notConfigured_of_errCode ((raise_code hr).symm.trans hcode))
  · exact errCode_ne_ok .notConfigured (hcode.symm.trans (respond_code hr))

/-! ### Precise faults -/

/-- The state a frame leaves: that of a fault, or a successful command's with its response. -/
theorem serveFrame_next {f : Frame} {s t : State} (h : serveFrame f s = .next t) :
    (∃ e, t = raise e s) ∨ ∃ payload u, t = respond codeOk payload u ∧ Keeps s u := by
  rcases serveFrame_cases f s with ⟨e, he⟩ | ⟨u, payload, hu, hkeeps⟩
  · exact .inl ⟨e, outcome_next_inj.mp (h.symm.trans he)⟩
  · exact .inr ⟨payload, u, outcome_next_inj.mp (h.symm.trans hu), hkeeps⟩

/-- A frame answered with a non-zero code faulted, and left the state of that fault. -/
theorem serveFrame_faulted {f : Frame} {s t : State} {r : Response} (h : serveFrame f s = .next t)
    (hr : t.rsp = some r) (hcode : r[0] ≠ codeOk) : ∃ e, t = raise e s := by
  rcases serveFrame_next h with hfault | ⟨payload, u, rfl, -⟩
  · exact hfault
  · exact absurd (respond_code hr) hcode

/-- A frame answered with code 0 succeeded, and its command kept what `Keeps` lists. -/
theorem serveFrame_succeeded {f : Frame} {s t : State} {r : Response} (h : serveFrame f s = .next t)
    (hr : t.rsp = some r) (hcode : r[0] = codeOk) : ∃ payload u, t = respond codeOk payload u ∧ Keeps s u := by
  rcases serveFrame_next h with ⟨e, rfl⟩ | hok
  · exact absurd ((raise_code hr).symm.trans hcode) (errCode_ne_ok e)
  · exact hok

/-- Settles O47: the code of a response tells a fault, which writes two registers, from a success, which keeps them. -/
theorem faultsArePrecise : Obligations.FaultsArePrecise := by
  refine ⟨raise_eq, fun f s t r h hr hcode => ?_, fun f s t r h hr hcode => ?_⟩
  · obtain ⟨e, rfl⟩ := serveFrame_faulted h hr hcode
    obtain rfl : responseOf (errCode e) [] = r := Option.some.inj hr
    exact ⟨e, rfl, raise_eq e s⟩
  · obtain ⟨payload, u, rfl, hkeeps⟩ := serveFrame_succeeded h hr hcode
    exact ⟨hkeeps.fault, hkeeps.lastErr⟩

end Sys2Proof.Proofs

/-!
PROOF. The encoder and the decoder are inverse, and the frames the assembler emits (spec/30_encoding.md sections 3 to 6
and 8).
-/
namespace Sys2Proof.Proofs

open Sys2Proof.Machine Sys2Proof.Safety

/-! ### Decoding an encoding -/

theorem decode_encode (i : Instr) : decode (encode i) = .ok i := by
  cases i with
  | qr a b c d =>
    rw [encode, decode_qr (frameOf_op ..), fieldA_frameOf, fieldB_frameOf, fieldC_frameOf, fieldD_frameOf]
    simp [qrArea_getElem, le32_bytesLe32]
  | block key nonce ctr =>
    rw [encode, decode_block (frameOf_op ..), fieldKey_frameOf, fieldNonce_frameOf, fieldCtr32_frameOf]
    simp [ctrTail_getElem, le32_bytesLe32]
  | new klen nlen key nonce idx =>
    rw [encode, decode_new (frameOf_op ..), fieldKlen, frameOf_klen, fieldNlen, frameOf_nlen, fieldKey_frameOf,
      fieldNonce_frameOf, fieldIdx_frameOf, le64_bytesLe64]
  | seek idx => rw [encode, decode_seek (frameOf_op ..), fieldIdx_frameOf, le64_bytesLe64]
  | xorb data => rw [encode, decode_xorb (frameOf_op ..), fieldData, frameOf_data]
  | nextb => exact decode_nextb (frameOf_op ..)
  | rdst => exact decode_rdst (frameOf_op ..)

/-- Settles O3: every operand is read back from the bytes `frameOf` wrote it to. -/
theorem decodeOfEncode : Obligations.DecodeOfEncode := decode_encode

/-! ### Encoding what a canonical frame decodes to -/

/-- The 8 bytes at 48 of a frame, which CTR32 and IDX share (rule R62). -/
def fieldTail (f : Frame) : Vector Byte 8 := Vector.ofFn fun i : Fin 8 => f[48 + i.val]

theorem fieldKey_getElem (f : Frame) (k : Nat) (h : k < 32) : (fieldKey f)[k] = f[4 + k] := by simp [fieldKey]

theorem fieldNonce_getElem (f : Frame) (k : Nat) (h : k < 12) : (fieldNonce f)[k] = f[36 + k] := by simp [fieldNonce]

theorem fieldTail_getElem (f : Frame) (k : Nat) (h : k < 8) : (fieldTail f)[k] = f[48 + k] := by simp [fieldTail]

/-- The seven parts of rule R62 are the whole frame. -/
theorem frameOf_fields (f : Frame) :
    frameOf (fieldOp f) (fieldKlen f) (fieldNlen f) (fieldData f) (fieldKey f) (fieldNonce f) (fieldTail f) = f := by
  apply Vector.ext
  intro k hk
  rw [frameOf_getElem _ _ _ _ _ _ _ k hk]
  split_ifs with h0 h1 h2 h3 h36 h48
  · subst h0; rfl
  · subst h1; rfl
  · subst h2; rfl
  · subst h3; rfl
  · simp only [fieldKey_getElem, Nat.add_sub_cancel' (show 4 ≤ k by omega)]
  · simp only [fieldNonce_getElem, Nat.add_sub_cancel' (show 36 ≤ k by omega)]
  · simp only [fieldTail_getElem, Nat.add_sub_cancel' (show 48 ≤ k by omega)]

/-- A word read from four bytes of a frame has those bytes. -/
theorem bytesLe32_le32_getElem (f : Frame) (j k : Nat) (hj : j + 3 < 56) (hk : k < 4) :
    (bytesLe32 (le32 f[j] f[j + 1] f[j + 2] f[j + 3]))[k] = f[j + k] := by
  simp only [bytesLe32_le32]
  match k with
  | 0 | 1 | 2 | 3 => rfl

theorem bytesLe64_fieldIdx (f : Frame) : bytesLe64 (fieldIdx f) = fieldTail f := by
  rw [fieldIdx, bytesLe64_le64]
  rfl

/-- The bytes of the frame from index `lo` up to, not including, index `hi` are 0. -/
def ZeroBytes (f : Frame) (lo hi : Nat) : Prop := ∀ (k : Nat) (hk : k < 56), lo ≤ k → k < hi → f[k] = 0

section Canonical

variable {f : Frame}

theorem ZeroBytes.mono {lo hi lo' hi' : Nat} (h : ZeroBytes f lo hi) (hlo : lo ≤ lo') (hhi : hi' ≤ hi) :
    ZeroBytes f lo' hi' :=
  fun k hk hl hh => h k hk (hlo.trans hl) (hh.trans_le hhi)

theorem qrArea_fields (h : ZeroBytes f 20 36) : qrArea (fieldA f) (fieldB f) (fieldC f) (fieldD f) = fieldKey f := by
  apply Vector.ext
  intro k hk
  rw [qrArea_getElem _ _ _ _ k hk, fieldKey_getElem f k hk]
  split_ifs with h4 h8 h12 h16
  · exact bytesLe32_le32_getElem f 4 k (by omega) h4
  · refine (bytesLe32_le32_getElem f 8 (k - 4) (by omega) (by omega)).trans ?_
    congr 1; omega
  · refine (bytesLe32_le32_getElem f 12 (k - 8) (by omega) (by omega)).trans ?_
    congr 1; omega
  · refine (bytesLe32_le32_getElem f 16 (k - 12) (by omega) (by omega)).trans ?_
    congr 1; omega
  · exact (h (4 + k) (by omega) (by omega) (by omega)).symm

theorem ctrTail_fieldCtr32 (h : ZeroBytes f 52 56) : ctrTail (fieldCtr32 f) = fieldTail f := by
  apply Vector.ext
  intro k hk
  rw [ctrTail_getElem _ k hk, fieldTail_getElem f k hk]
  split_ifs with h4
  · exact bytesLe32_le32_getElem f 48 k (by omega) h4
  · exact (h (48 + k) (by omega) (by omega) (by omega)).symm

theorem fieldKey_eq_zeros (h : ZeroBytes f 4 36) : zeros 32 = fieldKey f :=
  Vector.ext fun k hk => by
    rw [zeros_getElem 32 k hk, fieldKey_getElem f k hk, h (4 + k) (by omega) (by omega) (by omega)]

theorem fieldNonce_eq_zeros (h : ZeroBytes f 36 48) : zeros 12 = fieldNonce f :=
  Vector.ext fun k hk => by
    rw [zeros_getElem 12 k hk, fieldNonce_getElem f k hk, h (36 + k) (by omega) (by omega) (by omega)]

theorem fieldTail_eq_zeros (h : ZeroBytes f 48 56) : zeros 8 = fieldTail f :=
  Vector.ext fun k hk => by
    rw [zeros_getElem 8 k hk, fieldTail_getElem f k hk, h (48 + k) (by omega) (by omega) (by omega)]

theorem frameOf_zeros (h : ZeroBytes f 4 56) (op klen nlen data : Byte) :
    frameOf op klen nlen data (zeros 32) (zeros 12) (zeros 8) =
      frameOf op klen nlen data (fieldKey f) (fieldNonce f) (fieldTail f) := by
  rw [fieldKey_eq_zeros (h.mono (by decide) (by decide)), fieldNonce_eq_zeros (h.mono (by decide) (by decide)),
    fieldTail_eq_zeros (h.mono (by decide) (by decide))]

theorem formatReads_nextb (k : Nat) : formatReads 0x13#8 k = true ↔ k = 0 := by simp [formatReads]

theorem formatReads_rdst (k : Nat) : formatReads 0x20#8 k = true ↔ k = 0 := by simp [formatReads]

theorem canonical_byte (hc : canonicalFrame f = true) {op : Byte} (e : fieldOp f = op) (k : Nat) (hk : k < 56)
    (hr : ¬ formatReads op k = true) : f[k] = 0 := by
  rw [canonicalFrame, decide_eq_true_iff] at hc
  exact hc ⟨k, hk⟩ (by rw [show f[0] = op from e]; exact Bool.eq_false_iff.mpr hr)

theorem canonical_zeroBytes (hc : canonicalFrame f = true) {op : Byte} (e : fieldOp f = op) (lo hi : Nat)
    (hr : ∀ k, lo ≤ k → k < hi → ¬ formatReads op k = true) : ZeroBytes f lo hi :=
  fun k hk hl hh => canonical_byte hc e k hk (hr k hl hh)

/-- The encoder builds the frame from its fields, with zeros for the fields its format does not read (rule R68). -/
theorem encode_decode (hc : canonicalFrame f = true) {i : Instr} (h : decode f = .ok i) : encode i = f := by
  have hlegal : fieldOp f ∈ legalOpcodes := by
    by_contra hn
    simp [decode_illegal hn] at h
  have hklen {op : Byte} (e : fieldOp f = op) (hr : ¬ formatReads op 1 = true) : fieldKlen f = 0 :=
    canonical_byte hc e 1 (by decide) hr
  have hnlen {op : Byte} (e : fieldOp f = op) (hr : ¬ formatReads op 2 = true) : fieldNlen f = 0 :=
    canonical_byte hc e 2 (by decide) hr
  have hdata {op : Byte} (e : fieldOp f = op) (hr : ¬ formatReads op 3 = true) : fieldData f = 0 :=
    canonical_byte hc e 3 (by decide) hr
  conv_rhs => rw [← frameOf_fields f]
  rcases mem_legalOpcodes.mp hlegal with e | e | e | e | e | e | e
  · obtain rfl := Except.ok.inj ((decode_qr e).symm.trans h)
    rw [encode, qrArea_fields (canonical_zeroBytes hc e 20 36 fun k _ _ => by rw [formatReads_qr]; omega),
      fieldNonce_eq_zeros (canonical_zeroBytes hc e 36 48 fun k _ _ => by rw [formatReads_qr]; omega),
      fieldTail_eq_zeros (canonical_zeroBytes hc e 48 56 fun k _ _ => by rw [formatReads_qr]; omega),
      e, hklen e (by decide), hnlen e (by decide), hdata e (by decide)]
  · obtain rfl := Except.ok.inj ((decode_block e).symm.trans h)
    rw [encode, ctrTail_fieldCtr32 (canonical_zeroBytes hc e 52 56 fun k _ _ => by rw [formatReads_block]; omega),
      e, hklen e (by decide), hnlen e (by decide), hdata e (by decide)]
  · obtain rfl := Except.ok.inj ((decode_new e).symm.trans h)
    rw [encode, bytesLe64_fieldIdx, e, hdata e (by decide)]
  · obtain rfl := Except.ok.inj ((decode_seek e).symm.trans h)
    rw [encode, fieldKey_eq_zeros (canonical_zeroBytes hc e 4 36 fun k _ _ => by rw [formatReads_seek]; omega),
      fieldNonce_eq_zeros (canonical_zeroBytes hc e 36 48 fun k _ _ => by rw [formatReads_seek]; omega),
      bytesLe64_fieldIdx, e, hklen e (by decide), hnlen e (by decide), hdata e (by decide)]
  · obtain rfl := Except.ok.inj ((decode_xorb e).symm.trans h)
    have hz := canonical_zeroBytes hc e 4 56 fun k _ _ => by rw [formatReads_xorb]; omega
    rw [encode, frameOf_zeros hz, e, hklen e (by decide), hnlen e (by decide)]
  · obtain rfl := Except.ok.inj ((decode_nextb e).symm.trans h)
    have hz := canonical_zeroBytes hc e 4 56 fun k _ _ => by rw [formatReads_nextb]; omega
    rw [encode, frameOf_zeros hz, e, hklen e (by decide), hnlen e (by decide), hdata e (by decide)]
  · obtain rfl := Except.ok.inj ((decode_rdst e).symm.trans h)
    have hz := canonical_zeroBytes hc e 4 56 fun k _ _ => by rw [formatReads_rdst]; omega
    rw [encode, frameOf_zeros hz, e, hklen e (by decide), hnlen e (by decide), hdata e (by decide)]

end Canonical

/-- Settles O4: the fields of a canonical frame and the zeros between them are the whole frame. -/
theorem encodeOfDecode : Obligations.EncodeOfDecode := fun _ _ hc h => encode_decode hc h

/-! ### The decoder's answer, and the frames of the spec -/

/-- Settles O5: the decoder tests `OP` and reads the fields of rule R62. -/
theorem opcodeSelectsCommand : Obligations.OpcodeSelectsCommand := fun _ => rfl

/-- Settles O6, by computing on each of the five frames. -/
theorem specFramesDecode : Obligations.SpecFramesDecode :=
  ⟨decode_qrExampleFrame, by decide +kernel, by decide +kernel, by decide +kernel, by decide +kernel⟩

end Sys2Proof.Proofs

/-!
PROOF. The step: reset, the handshake and the invariant that every step keeps (spec/10_state.md sections 3, 5 and 8;
spec/30_encoding.md section 1; spec/70_reset_and_hazards.md sections 1 and 5).
-/
namespace Sys2Proof.Proofs

open Sys2Proof.Machine Sys2Proof.Safety

/-! ### What a step does, by the host's next pin levels -/

section Step

variable {s : State} {p : PortIn} {rest : List PortIn}

theorem step_of_host_cons (h : s.host = p :: rest) : step s = portStep p (setHost rest s) := by
  simp [step, pinStep, h]

theorem step_idle (h : s.host = []) : step s = .next s := by simp [step, pinStep, h]

theorem step_reset (h : s.host = p :: rest) (hr : p.rst = true) : step s = .next (resetCore (setHost rest s)) := by
  rw [step_of_host_cons h, portStep, if_pos hr]

theorem step_accept (h : s.host = p :: rest) (hr : p.rst = false) (hv : p.cmdValid = true) (hc : s.cmdReady = true) :
    step s = serveFrame p.cmdFrame (acceptCmd (setHost rest s)) := by
  rw [step_of_host_cons h, portStep, if_neg (by simp [hr]), if_pos ⟨hv, hc⟩]

theorem not_accepted (hn : p.cmdValid = false ∨ s.cmdReady = false) :
    ¬ (p.cmdValid = true ∧ s.cmdReady = true) := by
  rcases hn with hn | hn <;> simp [hn]

theorem step_take {r : Response} (h : s.host = p :: rest) (hr : p.rst = false)
    (hn : p.cmdValid = false ∨ s.cmdReady = false) (hrsp : s.rsp = some r) (hready : p.rspReady = true) :
    step s = .next (takeRsp r (setHost rest s)) := by
  simp [step_of_host_cons h, portStep, hr, not_accepted hn, hrsp, hready]

theorem step_no_response (h : s.host = p :: rest) (hr : p.rst = false)
    (hn : p.cmdValid = false ∨ s.cmdReady = false) (hrsp : s.rsp = none) : step s = .next (setHost rest s) := by
  simp [step_of_host_cons h, portStep, hr, not_accepted hn, hrsp]

theorem step_hold (h : s.host = p :: rest) (hr : p.rst = false) (hn : p.cmdValid = false ∨ s.cmdReady = false)
    (hready : p.rspReady = false) : step s = .next (setHost rest s) := by
  cases hrsp : s.rsp with
  | none => exact step_no_response h hr hn hrsp
  | some r => simp [step_of_host_cons h, portStep, hr, not_accepted hn, hrsp, hready]

end Step

/-! ### Reset -/

/-- Settles O52: every register of `State.reset` is written as 0 or an array of zeros. -/
theorem resetValues : Obligations.ResetValues := by
  refine ⟨fun i => ⟨?_, ?_⟩, fun i => ?_, fun i => ?_, rfl, rfl, fun i => ?_, rfl, rfl, rfl, rfl, rfl, rfl, rfl⟩ <;>
    simp [State.reset]

/-- Settles O53: a step tests `RST` before everything else. -/
theorem resetWins : Obligations.ResetWins := fun _ _ _ h hr => step_reset h hr

/-! ### The handshake -/

/-- Settles O54: an accepted frame is served on the state in which the port is taken. -/
theorem stepRunsTheDecodedCommand : Obligations.StepRunsTheDecodedCommand := by
  refine fun s p rest h hr hv hc => ⟨fun i hi => ?_, fun why hwhy => ?_⟩
  · rw [step_accept h hr hv hc, serveFrame_ok hi]
    rfl
  · rw [step_accept h hr hv hc, serveFrame_error hwhy]
    rfl

/-- A served frame leaves a response and touches neither `CMD_READY` nor the host's side of the ports. -/
theorem serveFrame_ports {f : Frame} {s t : State} (h : serveFrame f s = .next t) :
    t.rsp.isSome = true ∧ t.cmdReady = s.cmdReady ∧ t.host = s.host ∧ t.received = s.received := by
  rcases serveFrame_next h with ⟨e, rfl⟩ | ⟨payload, u, rfl, hk⟩
  · exact ⟨rfl, rfl, rfl, rfl⟩
  · exact ⟨rfl, hk.cmdReady, hk.host, hk.received⟩

/-- Settles O55, one clause a branch of the step. -/
theorem handshakeIsKept : Obligations.HandshakeIsKept := by
  refine ⟨fun s t p rest h hr hv hc ht => ?_, fun s p rest h hr hn hready => step_hold h hr hn hready,
    fun s p rest r h hr hn hrsp hready => step_take h hr hn hrsp hready,
    fun s p rest h hr hn hrsp => step_no_response h hr hn hrsp, fun s h => step_idle h⟩
  rw [step_accept h hr hv hc] at ht
  obtain ⟨hrsp, hcmd, hhost, hrec⟩ := serveFrame_ports ht
  exact ⟨hcmd, hrsp, hhost, hrec⟩

/-! ### Every step completes -/

theorem exec_completes (i : Instr) (s : State) : ∃ t, exec i s = .next t ∧ t.rsp.isSome = true := by
  rcases exec_cases i s with ⟨e, h⟩ | ⟨t, payload, h, -⟩
  · exact ⟨_, h, rfl⟩
  · exact ⟨_, h, rfl⟩

theorem step_completes (s : State) : ∃ t, step s = .next t := by
  cases hh : s.host with
  | nil => exact ⟨s, step_idle hh⟩
  | cons p rest =>
    cases hr : p.rst with
    | true => exact ⟨_, step_reset hh hr⟩
    | false =>
      by_cases hacc : p.cmdValid = true ∧ s.cmdReady = true
      · obtain ⟨t, _, ht, -⟩ := serveFrame_responseShape p.cmdFrame (acceptCmd (setHost rest s))
        exact ⟨t, (step_accept hh hr hacc.1 hacc.2).trans ht⟩
      · have hn : p.cmdValid = false ∨ s.cmdReady = false := by
          rw [Bool.eq_false_iff, Bool.eq_false_iff]
          exact not_and_or.mp hacc
        cases hready : p.rspReady with
        | false => exact ⟨_, step_hold hh hr hn hready⟩
        | true =>
          cases hrsp : s.rsp with
          | none => exact ⟨_, step_no_response hh hr hn hrsp⟩
          | some r => exact ⟨_, step_take hh hr hn hrsp hready⟩

/-- Settles O56: a command faults or succeeds, and each branch of a step answers a next state. -/
theorem everyStepCompletes : Obligations.EveryStepCompletes := ⟨exec_completes, step_completes⟩

/-! ### The invariant -/

/-- The reset values satisfy the part of the invariant that speaks of the registers and of the command port, whatever
the host has driven and taken. -/
theorem inv_resetCore {s : State} (h : ∀ r ∈ s.received, ResponseShape r) : Inv (resetCore s) :=
  ⟨(fun hv => by cases hv), fun _ => ⟨rfl, rfl, rfl, rfl, rfl, rfl, rfl⟩,
    ⟨⟨(fun hf => by cases hf), fun hf => absurd rfl hf⟩, .inl rfl⟩,
    ⟨(fun r hr => by cases hr), h⟩, ⟨fun _ => rfl, fun _ => rfl⟩⟩

/-- Settles O57: the reset state is what reset leaves of itself. -/
theorem invHoldsAtReset : Obligations.InvHoldsAtReset :=
  inv_resetCore (s := State.reset) fun r hr => by cases hr

theorem inv_setHost {s : State} (rest : List PortIn) (h : Inv s) : Inv (setHost rest s) := h

theorem inv_takeRsp {s : State} {r : Response} (h : Inv s) (hr : s.rsp = some r) : Inv (takeRsp r s) := by
  obtain ⟨hcache, hunconf, hfault, ⟨hrsp, hrec⟩, -⟩ := h
  refine ⟨hcache, hunconf, hfault, ⟨fun r' hr' => by simp at hr', fun r' hr' => ?_⟩,
    ⟨fun _ => rfl, fun _ => rfl⟩⟩
  rcases List.mem_append.mp hr' with hr' | hr'
  · exact hrec r' hr'
  · exact List.mem_singleton.mp hr' ▸ hrsp r hr

/-- A fault records itself and answers a shaped response; the registers the cache and the engine speak of stay. -/
theorem inv_raise {s : State} (e : ErrCode) (hcache : CacheSound s) (hunconf : UnconfiguredAtReset s)
    (hrec : ∀ r ∈ s.received, ResponseShape r) (hbusy : s.cmdReady = false) : Inv (raise e s) :=
  ⟨hcache, hunconf, ⟨⟨fun _ => errCode_ne_ok e, fun _ => rfl⟩, .inr ⟨e, rfl⟩⟩,
    ⟨fun _ hr => Option.some.inj hr ▸ responseShape_fault e, hrec⟩,
    ⟨fun h => absurd (hbusy.symm.trans h) (by decide), fun h => by cases h⟩⟩

/-- An OK response to a command that keeps what `Keeps` lists. -/
theorem inv_respond {s t : State} (payload : List Byte) (hk : Keeps s t) (hcache : CacheSound s)
    (hunconf : UnconfiguredAtReset s) (hfault : FaultRecorded s) (hrec : ∀ r ∈ s.received, ResponseShape r)
    (hbusy : s.cmdReady = false) : Inv (respond codeOk payload t) := by
  refine ⟨hk.cache hcache, hk.unconfigured hunconf, ?_,
    ⟨fun _ hr => Option.some.inj hr ▸ responseShape_ok payload, fun r hr => hrec r (hk.received ▸ hr)⟩,
    ⟨fun h => absurd ((hk.cmdReady.trans hbusy).symm.trans h) (by decide), fun h => by cases h⟩⟩
  rw [FaultRecorded, respond_fault, respond_lastErr, hk.fault, hk.lastErr]
  exact hfault

/-- An accepted frame keeps the invariant; that a response was there before does not matter. -/
theorem inv_serveFrame {f : Frame} {s t : State} (h : Inv s) (ht : serveFrame f (acceptCmd s) = .next t) : Inv t := by
  obtain ⟨hcache, hunconf, hfault, ⟨-, hrec⟩, -⟩ := h
  rcases serveFrame_next ht with ⟨e, rfl⟩ | ⟨payload, u, rfl, hk⟩
  · exact inv_raise e hcache hunconf hrec rfl
  · exact inv_respond payload hk hcache hunconf hfault hrec rfl

/-- Settles O58, by what a step can do: nothing, reset, serve a frame, or give up a response. -/
theorem everyStepKeepsInv : Obligations.EveryStepKeepsInv := by
  intro s t h ht
  rcases step_cases ht with rfl | ⟨p, rest, -, ⟨-, rfl⟩ | ⟨-, -, -, hserve⟩ | ⟨-, -, ⟨r, hr, -, rfl⟩ | rfl⟩⟩
  · exact h
  · obtain ⟨-, -, -, ⟨-, hrec⟩, -⟩ := h
    exact inv_resetCore hrec
  · exact inv_serveFrame (inv_setHost rest h) hserve
  · exact inv_takeRsp (inv_setHost rest h) hr
  · exact inv_setHost rest h

/-! ### What only reset and NEW can do -/

/-- A command clears none of the sticky registers. -/
theorem serveFrame_sticky {f : Frame} {s t : State} (h : serveFrame f s = .next t) :
    (s.configured = true → t.configured = true) ∧ (s.fault = true → t.fault = true) ∧
      (s.lastErr ≠ codeOk → t.lastErr ≠ codeOk) := by
  rcases serveFrame_next h with ⟨e, rfl⟩ | ⟨payload, u, rfl, hk⟩
  · exact ⟨id, fun _ => rfl, fun _ => errCode_ne_ok e⟩
  · rw [respond_fault, respond_lastErr, hk.fault, hk.lastErr]
    exact ⟨hk.configured, id, id⟩

/-- A step that was no reset clears none of the sticky registers. -/
theorem step_sticky {s t : State} (h : step s = .next t) :
    (∃ p rest, s.host = p :: rest ∧ p.rst = true) ∨
      ((s.configured = true → t.configured = true) ∧ (s.fault = true → t.fault = true) ∧
        (s.lastErr ≠ codeOk → t.lastErr ≠ codeOk)) := by
  rcases step_cases h with rfl | ⟨p, rest, hh, ⟨hr, -⟩ | ⟨-, -, -, hserve⟩ | ⟨-, -, ⟨r, -, -, rfl⟩ | rfl⟩⟩
  · exact .inr ⟨id, id, id⟩
  · exact .inl ⟨p, rest, hh, hr⟩
  · have hsticky := serveFrame_sticky hserve
    exact .inr hsticky
  · exact .inr ⟨id, id, id⟩
  · exact .inr ⟨id, id, id⟩

/-- Settles O49: every other step keeps the three registers set. -/
theorem onlyResetClears : Obligations.OnlyResetClears := by
  intro s t h hcleared
  rcases step_sticky h with hreset | ⟨hconf, hfault, herr⟩
  · exact hreset
  · rcases hcleared with ⟨hs, ht⟩ | ⟨hs, ht⟩ | ⟨hs, ht⟩
    · exact absurd (hconf hs) (by simp [ht])
    · exact absurd (hfault hs) (by simp [ht])
    · exact absurd ht (herr hs)

/-- Every command but NEW leaves the key and the nonce as they are. -/
theorem exec_keeps_key {i : Instr} {s t : State} (h : exec i s = .next t) (hi : opcode i ≠ 0x10#8) :
    t.k = s.k ∧ t.n = s.n := by
  cases i with
  | qr | block | rdst => obtain rfl := outcome_next_inj.mp h; exact ⟨rfl, rfl⟩
  | new => exact absurd rfl hi
  | seek idx =>
    cases hs : s.configured with
    | false =>
      rw [exec_unconfigured (by simp [opcode]) hs, outcome_next_inj] at h
      subst h; exact ⟨rfl, rfl⟩
    | true =>
      rw [exec_seek hs, outcome_next_inj] at h
      subst h; exact ⟨rfl, rfl⟩
  | xorb | nextb =>
    rcases exec_byte_next (by simp [opcode]) h with rfl | ⟨payload, rfl⟩
    · exact ⟨rfl, rfl⟩
    · obtain ⟨hk, hn, -⟩ := nextByte_frame s
      exact ⟨hk, hn⟩

/-- A NEW with wrong lengths faults and keeps the key and the nonce; with the right ones it writes both. -/
theorem exec_new_key {klen nlen : Byte} {key : KeyBytes} {nonce : NonceBytes} {idx : Index} {s t : State}
    (h : exec (.new klen nlen key nonce idx) s = .next t) :
    (t.k = s.k ∧ t.n = s.n) ∨ (klen = 32 ∧ nlen = 12 ∧ t.k = keyWords key ∧ t.n = nonceWords nonce) := by
  by_cases hk : klen = 32
  · subst hk
    by_cases hn : nlen = 12
    · subst hn
      obtain rfl := outcome_next_inj.mp h
      exact .inr ⟨rfl, rfl, rfl, rfl⟩
    · obtain rfl := outcome_next_inj.mp ((exec_new_of_nlen_ne hn key nonce idx s).symm.trans h)
      exact .inl ⟨rfl, rfl⟩
  · obtain rfl := outcome_next_inj.mp ((exec_new_of_klen_ne hk nlen key nonce idx s).symm.trans h)
    exact .inl ⟨rfl, rfl⟩

/-- A served frame keeps the key and the nonce, or is a NEW with the right lengths (rules R12, R13). -/
theorem serveFrame_key {f : Frame} {s t : State} (h : serveFrame f s = .next t) :
    (t.k = s.k ∧ t.n = s.n) ∨
      ∃ key nonce idx, decode f = .ok (.new 32 12 key nonce idx) ∧ t.k = keyWords key ∧ t.n = nonceWords nonce := by
  cases hd : decode f with
  | error why =>
    obtain rfl := outcome_next_inj.mp ((serveFrame_error hd s).symm.trans h)
    exact .inl ⟨rfl, rfl⟩
  | ok i =>
    rw [serveFrame_ok hd] at h
    cases i with
    | new klen nlen key nonce idx =>
      rcases exec_new_key h with hkept | ⟨rfl, rfl, hk, hn⟩
      · exact .inl hkept
      · exact .inr ⟨key, nonce, idx, rfl, hk, hn⟩
    | qr | block | seek | xorb | nextb | rdst => exact .inl (exec_keeps_key h (by simp [opcode]))

/-- A step that is no reset and serves no such NEW keeps the key and the nonce. -/
theorem step_key {s t : State} (h : step s = .next t) :
    (t.k = s.k ∧ t.n = s.n) ∨
      ∃ p rest, s.host = p :: rest ∧
        (p.rst = true ∨
          (s.cmdReady = true ∧ p.cmdValid = true ∧
            ∃ key nonce idx, decode p.cmdFrame = .ok (.new 32 12 key nonce idx) ∧
              t.k = keyWords key ∧ t.n = nonceWords nonce)) := by
  rcases step_cases h with rfl | ⟨p, rest, hh, ⟨hr, -⟩ | ⟨-, hv, hc, hserve⟩ | ⟨-, -, ⟨r, -, -, rfl⟩ | rfl⟩⟩
  · exact .inl ⟨rfl, rfl⟩
  · exact .inr ⟨p, rest, hh, .inl hr⟩
  · exact (serveFrame_key hserve).imp id fun hnew => ⟨p, rest, hh, .inr ⟨hc, hv, hnew⟩⟩
  · exact .inl ⟨rfl, rfl⟩
  · exact .inl ⟨rfl, rfl⟩

/-- Settles O50: of what a step can do, only reset and a served NEW write the two registers. -/
theorem onlyNewWritesTheKey : Obligations.OnlyNewWritesTheKey := by
  intro s t h hne
  rcases step_key h with ⟨hk, hn⟩ | hwritten
  · exact (hne.elim (· hk) (· hn)).elim
  · exact hwritten

end Sys2Proof.Proofs

/-!
PROOF. The assembler: the numbers and byte strings of a line, and the frames of source text (spec/30_encoding.md section
8).
-/
namespace Sys2Proof.Proofs

open Sys2Proof.Machine Sys2Proof.Safety

/-! ### Operands of a line -/

/-- A number that fits its field is the field's value. -/
theorem numField_toNat {width : Nat} {e : NumExpr} (h : e.fits width = true) :
    ((numField width e).toNat : Int) = e.value := by
  rw [NumExpr.fits, decide_eq_true_iff] at h
  rw [numField, BitVec.toNat_ofInt, Int.emod_eq_of_lt h.1 (by exact_mod_cast h.2), Int.toNat_of_nonneg h.1]

theorem padBytes_getElem (size : Nat) (bytes : List Byte) (i : Nat) (hi : i < size) :
    (padBytes size bytes)[i] = if h : i < bytes.length then bytes[i] else 0 := by
  rw [padBytes, Vector.getElem_ofFn]
  split_ifs with h <;> simp [h]

/-- A byte string of full size is its field. -/
theorem padBytes_toList {size : Nat} {bytes : List Byte} (h : bytes.length = size) :
    (padBytes size bytes).toList = bytes := by
  apply List.ext_getElem
  · simp [h]
  · intro i hi hlen
    rw [Vector.getElem_toList, padBytes_getElem, dif_pos hlen]

theorem assembleLine_decode (line : Line) : (assembleLine line).map decode = (lineCommands line).map .ok := by
  rw [assembleLine, List.map_map]
  exact List.map_congr_left fun i _ => decode_encode i

/-- Settles O10: a well-formed line has numbers that fit their fields, and its byte strings are padded. -/
theorem assembledLinesDecode : Obligations.AssembledLinesDecode := by
  refine ⟨assembleLine_decode, fun key nonce idx klen nlen h => ?_, fun a b c d h => ?_, fun key nonce ctr h => ?_,
    fun idx h => ⟨_, rfl, numField_toNat h⟩, fun data h => ⟨_, rfl, numField_toNat h⟩, rfl, rfl,
    fun width e h => numField_toNat h, fun _ => rfl, fun _ => rfl⟩
  · simp only [Line.wellFormed, Bool.and_eq_true] at h
    obtain ⟨⟨⟨-, hidx⟩, hklen⟩, hnlen⟩ := h
    exact ⟨_, _, _, _, _, rfl, numField_toNat hidx, numField_toNat hklen, numField_toNat hnlen,
      fun i => padBytes_getElem 32 key i i.isLt, fun i => padBytes_getElem 12 nonce i i.isLt⟩
  · simp only [Line.wellFormed, Bool.and_eq_true] at h
    obtain ⟨⟨⟨ha, hb⟩, hc⟩, hd⟩ := h
    exact ⟨_, _, _, _, rfl, numField_toNat ha, numField_toNat hb, numField_toNat hc, numField_toNat hd⟩
  · simp only [Line.wellFormed, Bool.and_eq_true, beq_iff_eq] at h
    obtain ⟨⟨hkey, hnonce⟩, hctr⟩ := h
    exact ⟨_, _, _, rfl, padBytes_toList hkey, padBytes_toList hnonce, numField_toNat hctr⟩

/-! ### Source text -/

theorem encode_op (i : Instr) : (encode i)[0] = opcode i := by
  cases i <;> exact frameOf_op ..

theorem canonicalFrame_encode (i : Instr) : canonicalFrame (encode i) = true := by
  rw [canonicalFrame, decide_eq_true_iff]
  intro k hr
  rw [encode_op] at hr
  exact encode_unread_eq_zero i k k.isLt hr

/-- Assembled frames are encodings of commands. -/
theorem mem_assemble {program : List Line} {f : Frame} (h : f ∈ assemble program) : ∃ i, encode i = f := by
  obtain ⟨line, -, hf⟩ := List.mem_flatMap.mp h
  obtain ⟨i, -, hi⟩ := List.mem_map.mp hf
  exact ⟨i, hi⟩

theorem mem_assembleText {texts : List (List Char)} {frames : List Frame} (h : assembleText texts = some frames) :
    ∀ f ∈ frames, ∃ i, encode i = f := by
  induction texts generalizing frames with
  | nil =>
    obtain rfl : [] = frames := Option.some.inj h
    exact fun f hf => absurd hf List.not_mem_nil
  | cons text rest ih =>
    rw [assembleText] at h
    split at h
    next lines tail _ htail =>
      obtain rfl : assemble lines ++ tail = frames := Option.some.inj h
      intro f hf
      rcases List.mem_append.mp hf with hf | hf
      · exact mem_assemble hf
      · exact ih htail f hf
    next => cases h

/-- Settles O11: the frames of a text are encodings; the spec's lines are read by computing. -/
theorem sourceTextAssembles : Obligations.SourceTextAssembles := by
  refine ⟨fun texts frames h f hf => ?_, by decide +kernel, by decide +kernel, by decide +kernel, by decide +kernel,
    by decide +kernel⟩
  obtain ⟨i, rfl⟩ := mem_assembleText h f hf
  exact ⟨canonicalFrame_encode i, i, decode_encode i, rfl⟩

end Sys2Proof.Proofs

/-!
PROOF. What the commands read and what they leave alone: the ports, the scratch and the secrets; repeated commands; the
cache and the cursor (spec/10_state.md sections 2 and 3; spec/20_memory.md sections 2 and 4;
spec/42_keystream_cursor.md; spec/60_exceptions.md sections 5 and 6; spec/70_reset_and_hazards.md section 3).
-/
namespace Sys2Proof.Proofs

open Sys2Proof.Machine Sys2Proof.Safety

/-! ### Relations between states that no command sees through -/

/-- `R` relates states that answer alike outside the byte requests: it fixes `CONFIGURED` and the status view, and every
operation of the other commands keeps it. -/
structure Blind (R : State → State → Prop) : Prop where
  configured {s t : State} : R s t → s.configured = t.configured
  status {s t : State} : R s t → statusView s = statusView t
  respond {s t : State} (code : Byte) (payload : List Byte) : R s t →
    R (respond code payload s) (respond code payload t)
  recordFault {s t : State} (e : ErrCode) : R s t → R (recordFault e s) (recordFault e t)
  setScratch {s t : State} (x o : Matrix) : R s t → R (setScratch x o s) (setScratch x o t)
  construct {s t : State} (k : KeyWords) (n : NonceWords) (idx : Index) : R s t →
    R (setConfigured (dropCache (position idx (setKeyNonce k n s))))
      (setConfigured (dropCache (position idx (setKeyNonce k n t))))
  reposition {s t : State} (idx : Index) : R s t →
    R (discardStale (position idx s)) (discardStale (position idx t))

theorem exec_block_eq_respond (key : KeyBytes) (nonce : NonceBytes) (ctr : Word) (s : State) :
    exec (.block key nonce ctr) s =
      .next (respond codeOk (blockOf (keyWords key) (nonceWords nonce) ctr).toList
        (setScratch (finalMatrix (keyWords key) (nonceWords nonce) ctr)
          (initMatrix (keyWords key) (nonceWords nonce) ctr) s)) :=
  exec_block key nonce ctr s

section Blind

variable {R : State → State → Prop} (hR : Blind R) {s t : State} (h : R s t)
include hR h

/-- Both states fault alike. -/
theorem blind_raise (e : ErrCode) : (raise e s).rsp = (raise e t).rsp ∧ R (raise e s) (raise e t) :=
  ⟨rfl, hR.respond (errCode e) [] (hR.recordFault e h)⟩

/-- From related states every command completes with the same response and leaves related states; for the byte requests,
where the relation sees neither the byte nor what the request does. -/
theorem blind_exec (i : Instr)
    (hbyte : opcode i ∈ [0x12#8, 0x13#8] → (nextByte s).1 = (nextByte t).1 ∧ R (nextByte s).2 (nextByte t).2) :
    ∃ s' t', exec i s = .next s' ∧ exec i t = .next t' ∧ s'.rsp = t'.rsp ∧ R s' t' := by
  have hconf := hR.configured h
  cases i with
  | qr a b c d => exact ⟨_, _, rfl, rfl, rfl, hR.respond _ _ h⟩
  | block key nonce ctr =>
    exact ⟨_, _, exec_block_eq_respond .., exec_block_eq_respond .., rfl, hR.respond _ _ (hR.setScratch _ _ h)⟩
  | rdst =>
    refine ⟨_, _, rfl, rfl, ?_, ?_⟩ <;> rw [hR.status h]
    · rfl
    · exact hR.respond _ _ h
  | new klen nlen key nonce idx =>
    by_cases hk : klen = 32
    · subst hk
      by_cases hn : nlen = 12
      · subst hn
        exact ⟨_, _, rfl, rfl, rfl, hR.respond _ _ (hR.construct _ _ idx h)⟩
      · exact ⟨_, _, exec_new_of_nlen_ne hn .., exec_new_of_nlen_ne hn .., blind_raise hR h _⟩
    · exact ⟨_, _, exec_new_of_klen_ne hk .., exec_new_of_klen_ne hk .., blind_raise hR h _⟩
  | seek idx =>
    cases hs : s.configured with
    | false => exact ⟨_, _, if_pos hs, if_pos (hconf ▸ hs), blind_raise hR h _⟩
    | true =>
      exact ⟨_, _, if_neg (by simp [hs]), if_neg (by simp [← hconf, hs]), rfl,
        hR.respond _ _ (hR.reposition idx h)⟩
  | xorb data =>
    cases hs : s.configured with
    | false => exact ⟨_, _, if_pos hs, if_pos (hconf ▸ hs), blind_raise hR h _⟩
    | true =>
      obtain ⟨hz, hnext⟩ := hbyte (by simp [opcode])
      refine ⟨_, _, exec_xorb hs data, exec_xorb (hconf ▸ hs) data, ?_, ?_⟩
      · rw [respond_rsp, respond_rsp, hz]
      · rw [hz]
        exact hR.respond _ _ hnext
  | nextb =>
    cases hs : s.configured with
    | false => exact ⟨_, _, if_pos hs, if_pos (hconf ▸ hs), blind_raise hR h _⟩
    | true =>
      obtain ⟨hz, hnext⟩ := hbyte (by simp [opcode])
      refine ⟨_, _, exec_nextb hs, exec_nextb (hconf ▸ hs), ?_, ?_⟩
      · rw [respond_rsp, respond_rsp, hz]
      · rw [hz]
        exact hR.respond _ _ hnext

end Blind

/-! ### No command reads the ports -/

/-- A state with other values at the ports. -/
def setPorts (ready : Bool) (rsp : Option Response) (host : List PortIn) (received : List Response) (s : State) :
    State :=
  { s with cmdReady := ready, rsp := rsp, host := host, received := received }

theorem blind_setPorts (ready : Bool) (host : List PortIn) (received : List Response) :
    Blind fun s t => ∃ rsp, t = setPorts ready rsp host received s where
  configured := by rintro s _ ⟨rsp, rfl⟩; rfl
  status := by rintro s _ ⟨rsp, rfl⟩; rfl
  respond code payload := by rintro ⟨rsp, rfl⟩; exact ⟨_, rfl⟩
  recordFault e := by rintro ⟨rsp, rfl⟩; exact ⟨rsp, rfl⟩
  setScratch x o := by rintro ⟨rsp, rfl⟩; exact ⟨rsp, rfl⟩
  construct k n idx := by rintro ⟨rsp, rfl⟩; exact ⟨rsp, rfl⟩
  reposition idx := by rintro ⟨rsp, rfl⟩; exact ⟨rsp, by rw [discardStale_eq, discardStale_eq]; rfl⟩

theorem nextByte_setPorts (ready : Bool) (rsp : Option Response) (host : List PortIn) (received : List Response)
    (s : State) :
    (nextByte s).1 = (nextByte (setPorts ready rsp host received s)).1 ∧
      (nextByte (setPorts ready rsp host received s)).2 = setPorts ready rsp host received (nextByte s).2 := by
  rw [nextByte_eq, nextByte_eq]
  exact ⟨rfl, rfl⟩

/-- A command writes its response and neither reads nor writes the rest of the ports (rules R60, R71). -/
theorem exec_setPorts {i : Instr} {s t : State} (h : exec i s = .next t) (ready : Bool) (rsp : Option Response)
    (host : List PortIn) (received : List Response) :
    exec i (setPorts ready rsp host received s) = .next (setPorts ready t.rsp host received t) := by
  obtain ⟨hz, hnext⟩ := nextByte_setPorts ready rsp host received s
  obtain ⟨s', t', hs, ht, hrsp, rsp', rfl⟩ :=
    blind_exec (blind_setPorts ready host received) ⟨rsp, rfl⟩ i fun _ => ⟨hz, rsp, hnext⟩
  obtain rfl := outcome_next_inj.mp (hs.symm.trans h)
  rw [ht, hrsp]
  rfl

/-! ### No command reads the scratch -/

/-- The same registers and ports but for the scratch and the presented response. -/
def SameButScratchRsp (s t : State) : Prop := ∃ x o rsp, t = { s with x := x, o := o, rsp := rsp }

theorem sameButScratch_iff {s t : State} : SameButScratch s t ↔ s.rsp = t.rsp ∧ SameButScratchRsp s t := by
  constructor
  · intro h
    have heq : { s with x := t.x, o := t.o } = t := h
    exact ⟨by rw [← heq], t.x, t.o, s.rsp, heq.symm⟩
  · rintro ⟨hrsp, x, o, rsp, rfl⟩
    obtain rfl : s.rsp = rsp := hrsp
    rfl

theorem blind_sameButScratchRsp : Blind SameButScratchRsp where
  configured := by rintro s _ ⟨x, o, rsp, rfl⟩; rfl
  status := by rintro s _ ⟨x, o, rsp, rfl⟩; rfl
  respond code payload := by rintro ⟨x, o, rsp, rfl⟩; exact ⟨x, o, _, rfl⟩
  recordFault e := by rintro ⟨x, o, rsp, rfl⟩; exact ⟨x, o, rsp, rfl⟩
  setScratch x o := by rintro ⟨_, _, rsp, rfl⟩; exact ⟨x, o, rsp, rfl⟩
  construct k n idx := by rintro ⟨x, o, rsp, rfl⟩; exact ⟨x, o, rsp, rfl⟩
  reposition idx := by
    rintro ⟨x, o, rsp, rfl⟩
    exact ⟨x, o, rsp, by rw [discardStale_eq, discardStale_eq]; rfl⟩

theorem nextByte_sameButScratchRsp {s t : State} (h : SameButScratchRsp s t) :
    (nextByte s).1 = (nextByte t).1 ∧ SameButScratchRsp (nextByte s).2 (nextByte t).2 := by
  obtain ⟨x, o, rsp, rfl⟩ := h
  rw [nextByte_eq, nextByte_eq]
  exact ⟨rfl, _, _, _, rfl⟩

/-- From states that differ only in the scratch and the old response, every command leaves states that differ only in
the scratch. -/
theorem exec_sameButScratch {s t : State} (h : SameButScratchRsp s t) (i : Instr) :
    ∃ s' t', exec i s = .next s' ∧ exec i t = .next t' ∧ SameButScratch s' t' := by
  obtain ⟨s', t', hs, ht, hrel⟩ := blind_exec blind_sameButScratchRsp h i fun _ => nextByte_sameButScratchRsp h
  exact ⟨s', t', hs, ht, sameButScratch_iff.mpr hrel⟩

/-- Settles O25: a state with other scratch is one of those that no command sees through. -/
theorem scratchInfluencesNothing : Obligations.ScratchInfluencesNothing :=
  fun i _ _ h => exec_sameButScratch (sameButScratch_iff.mp h).2 i

/-- QR and BLOCK write the scratch and the response only. -/
theorem exec_functionUnit {i : Instr} {s t : State} (hi : opcode i = 0x01 ∨ opcode i = 0x02) (h : exec i s = .next t) :
    SameButScratchRsp t s := by
  cases i with
  | qr | block => obtain rfl := outcome_next_inj.mp h; exact ⟨s.x, s.o, s.rsp, rfl⟩
  | new | seek | xorb | nextb | rdst => simp [opcode] at hi

/-- Settles O26: the state before the XORB differs in the scratch and in the old response only. -/
theorem functionUnitsDoNotDisturb : Obligations.FunctionUnitsDoNotDisturb := by
  intro i data s u v w hi hu hv hw
  obtain ⟨v', w', hv', hw', hsame⟩ := exec_sameButScratch (exec_functionUnit hi hu) (.xorb data)
  obtain rfl := outcome_next_inj.mp (hv'.symm.trans hv)
  obtain rfl := outcome_next_inj.mp (hw'.symm.trans hw)
  exact hsame

/-! ### No command but the byte requests reads the secrets -/

theorem sameButSecrets_iff {s t : State} :
    SameButSecrets s t ↔ ∃ x o k n ksb, t = { s with x := x, o := o, k := k, n := n, ksb := ksb } := by
  constructor
  · exact fun h => ⟨t.x, t.o, t.k, t.n, t.ksb, h.symm⟩
  · rintro ⟨x, o, k, n, ksb, rfl⟩
    rfl

theorem blind_sameButSecrets : Blind SameButSecrets where
  configured h := by obtain ⟨x, o, k, n, ksb, rfl⟩ := sameButSecrets_iff.mp h; rfl
  status h := by obtain ⟨x, o, k, n, ksb, rfl⟩ := sameButSecrets_iff.mp h; rfl
  respond code payload h := by obtain ⟨x, o, k, n, ksb, rfl⟩ := sameButSecrets_iff.mp h; rfl
  recordFault e h := by obtain ⟨x, o, k, n, ksb, rfl⟩ := sameButSecrets_iff.mp h; rfl
  setScratch x o h := by obtain ⟨_, _, k, n, ksb, rfl⟩ := sameButSecrets_iff.mp h; rfl
  construct k n idx h := by obtain ⟨x, o, _, _, ksb, rfl⟩ := sameButSecrets_iff.mp h; rfl
  reposition idx h := by
    obtain ⟨x, o, k, n, ksb, rfl⟩ := sameButSecrets_iff.mp h
    rw [discardStale_eq, discardStale_eq]
    rfl

/-- Settles O51: the operations of the other commands keep the relation. -/
theorem secretsAreNotReadable : Obligations.SecretsAreNotReadable :=
  fun i _ _ hi h => blind_exec blind_sameButSecrets h i fun hbyte => absurd hbyte hi

/-! ### Indices that denote the same byte -/

/-- Settles O28: both commands read an index through the counter and the offset it gives. -/
theorem indicesAliasModulo38Bits : Obligations.IndicesAliasModulo38Bits := by
  refine fun i j s h => ⟨exec_seek_congr h s, fun klen nlen key nonce => ?_⟩
  simp only [exec, execNew, position, idxCounter_alias h, idxOffset_alias h]

/-! ### Repeated commands and repeated faults -/

theorem raise_raise (e : ErrCode) (s : State) : raise e (raise e s) = raise e s := rfl

theorem exec_new_again {klen nlen : Byte} {key : KeyBytes} {nonce : NonceBytes} {idx : Index} {s t : State}
    (h : exec (.new klen nlen key nonce idx) s = .next t) : exec (.new klen nlen key nonce idx) t = .next t := by
  by_cases hk : klen = 32
  · subst hk
    by_cases hn : nlen = 12
    · subst hn
      exact exec_new_twice h
    · obtain rfl := outcome_next_inj.mp ((exec_new_of_nlen_ne hn key nonce idx s).symm.trans h)
      rw [exec_new_of_nlen_ne hn, raise_raise]
  · obtain rfl := outcome_next_inj.mp ((exec_new_of_klen_ne hk nlen key nonce idx s).symm.trans h)
    rw [exec_new_of_klen_ne hk, raise_raise]

theorem exec_unconfigured_again {i : Instr} {s t : State} (hi : opcode i ∈ [0x11#8, 0x12#8, 0x13#8])
    (hs : s.configured = false) (h : exec i s = .next t) : exec i t = .next t := by
  obtain rfl := outcome_next_inj.mp ((exec_unconfigured hi hs).symm.trans h)
  exact exec_unconfigured hi hs

theorem exec_seek_again {idx : Index} {s t : State} (h : exec (.seek idx) s = .next t) :
    exec (.seek idx) t = .next t := by
  cases hs : s.configured with
  | false => exact exec_unconfigured_again (by simp [opcode]) hs h
  | true =>
    obtain rfl := outcome_next_inj.mp ((exec_seek hs idx).symm.trans h)
    rw [exec_seek (by exact hs)]
    simp only [Bool.and_assoc, Bool.and_self]

/-- A command that requests no byte leaves a state that it does not change again. -/
theorem exec_again {i : Instr} {s t : State} (hi : opcode i ∉ [0x12#8, 0x13#8]) (h : exec i s = .next t) :
    exec i t = .next t := by
  cases i with
  | qr | block | rdst => obtain rfl := outcome_next_inj.mp h; rfl
  | new => exact exec_new_again h
  | seek => exact exec_seek_again h
  | xorb | nextb => simp [opcode] at hi

/-- Settles O40: what such a command writes does not depend on what it has written. -/
theorem repeatingIsIdempotent : Obligations.RepeatingIsIdempotent := fun _ _ _ hi h => exec_again hi h

/-- A byte request that faults finds no configured engine, and so does a second one. -/
theorem exec_byte_fault_again {i : Instr} {s t : State} {r : Response} (hi : opcode i ∈ [0x12#8, 0x13#8])
    (h : exec i s = .next t) (hr : t.rsp = some r) (hcode : r[0] ≠ codeOk) : exec i t = .next t := by
  cases hs : s.configured with
  | false => exact exec_unconfigured_again (List.mem_cons_of_mem _ hi) hs h
  | true =>
    cases i with
    | xorb data =>
      obtain rfl := outcome_next_inj.mp ((exec_xorb hs data).symm.trans h)
      exact absurd (respond_code hr) hcode
    | nextb =>
      obtain rfl := outcome_next_inj.mp ((exec_nextb hs).symm.trans h)
      exact absurd (respond_code hr) hcode
    | qr | block | new | seek | rdst => simp [opcode] at hi

/-- Settles O48: an illegal frame faults in every state, and a command repeats its fault. -/
theorem repeatedFaultsRepeat : Obligations.RepeatedFaultsRepeat := by
  intro f s t r h hr hcode
  cases hd : decode f with
  | error why =>
    obtain rfl := outcome_next_inj.mp ((serveFrame_error hd s).symm.trans h)
    rw [serveFrame_error hd, raise_raise]
  | ok i =>
    rw [serveFrame_ok hd] at h ⊢
    by_cases hi : opcode i ∈ [0x12#8, 0x13#8]
    · exact exec_byte_fault_again hi h hr hcode
    · exact exec_again hi h

/-! ### The cache -/

theorem cacheHit_eq_false {s : State} (h : s.ksbValid = false ∨ s.ksbTag ≠ s.ctr) : cacheHit s = false := by
  rw [Bool.eq_false_iff, ne_eq, cacheHit_iff]
  rintro ⟨hv, ht⟩
  rcases h with h | h
  · exact absurd (h.symm.trans hv) (by decide)
  · exact h ht

/-- Settles O29: `fill` tests the valid bit and the tag, nothing else. -/
theorem fillGeneratesOnAMiss : Obligations.FillGeneratesOnAMiss :=
  ⟨fun s hv ht => fill_hit ((cacheHit_iff s).mpr ⟨hv, ht⟩), fun _ h => ⟨_, _, fill_miss (cacheHit_eq_false h)⟩⟩

/-- A byte request that misses leaves the matrices of its block transform in the scratch. -/
theorem nextByte_scratch_miss {s : State} (h : cacheHit s = false) :
    (nextByte s).2.x = finalMatrix s.k s.n s.ctr ∧ (nextByte s).2.o = initMatrix s.k s.n s.ctr := by
  rw [nextByte_eq, h]
  exact ⟨rfl, rfl⟩

/-- Settles O60: each of the transforms writes `finalMatrix` and `initMatrix`. -/
theorem scratchHoldsTheLastTransform : Obligations.ScratchHoldsTheLastTransform := by
  refine ⟨fun key nonce ctr s => ⟨_, exec_block key nonce ctr s, rfl, finalMatrix_eq ..⟩, fun s h => ?_,
    fun i s hi hs h => ?_⟩
  · rw [fill_miss (cacheHit_eq_false h)]
    exact ⟨rfl, finalMatrix_eq ..⟩
  · obtain ⟨hx, ho⟩ := nextByte_scratch_miss (cacheHit_eq_false h)
    rw [finalMatrix_eq, ← ho] at hx
    cases i with
    | xorb data => exact ⟨_, exec_xorb hs data, ho, hx⟩
    | nextb => exact ⟨_, exec_nextb hs, ho, hx⟩
    | qr | block | new | seek | rdst => simp [opcode] at hi

/-- Settles O36: with a sound cache the byte of a request is the keystream byte at the cursor's index. -/
theorem bytesComeFromTheKeystream : Obligations.BytesComeFromTheKeystream := by
  intro data s hc hs
  refine ⟨_, _, exec_xorb hs data, exec_nextb hs, ?_, ?_, nextByte_sound hc hs, nextByte_sound hc hs⟩
  · rw [respond_rsp, nextByte_byte hc]
    rfl
  · rw [respond_rsp, nextByte_byte hc]
    rfl

/-- SEEK into the cached block: the cache stays valid, so a fill does nothing. -/
theorem exec_seek_cached {idx : Index} {s : State} (hs : s.configured = true) (hv : s.ksbValid = true)
    (htag : s.ksbTag = idxCounter idx) :
    ∃ t, exec (.seek idx) s = .next t ∧ t.ctr = idxCounter idx ∧ t.off = idxOffset idx ∧ t.ksbValid = true ∧
      cacheHit t = true ∧ fill t = t := by
  have hkeep : (s.ksbValid && (s.ksbTag == idxCounter idx)) = true := by simp [hv, htag]
  have hhit : cacheHit { s with
      ctr := idxCounter idx, off := idxOffset idx, ksbValid := s.ksbValid && (s.ksbTag == idxCounter idx),
      rsp := some (responseOf codeOk []) } = true := (cacheHit_iff _).mpr ⟨hkeep, htag⟩
  exact ⟨_, exec_seek hs idx, rfl, rfl, hkeep, hhit, fill_hit hhit⟩

/-- SEEK out of the cached block: the cache is dropped, so a fill generates the block of the new counter. -/
theorem exec_seek_uncached {idx : Index} {s : State} (hs : s.configured = true) (htag : s.ksbTag ≠ idxCounter idx) :
    ∃ t, exec (.seek idx) s = .next t ∧ t.ctr = idxCounter idx ∧ t.off = idxOffset idx ∧ t.ksbValid = false ∧
      cacheHit t = false ∧ (fill t).ksb = blockOf s.k s.n (idxCounter idx) ∧ (fill t).ksbTag = idxCounter idx := by
  refine ⟨_, exec_seek_other_block hs htag, rfl, rfl, rfl, rfl, ?_, ?_⟩ <;> rw [fill_miss rfl]

/-- Settles O39: indices 0 and 63 have counter 0, index 64 has counter 1. -/
theorem seekAcrossABlockBoundary : Obligations.SeekAcrossABlockBoundary := by
  intro s hs hv htag
  have h0 : s.ksbTag = idxCounter 0 := htag.trans (by decide)
  have h63 : s.ksbTag = idxCounter 63 := htag.trans (by decide)
  have h64 : s.ksbTag ≠ idxCounter 64 := htag ▸ by decide
  exact ⟨exec_seek_cached hs hv h0, exec_seek_cached hs hv h63, exec_seek_uncached hs h64⟩

end Sys2Proof.Proofs

/-!
PROOF. Runs of byte requests: sequences of XORB and NEXTB, APPLY and KEYSTREAM (spec/43_cipher_engine.md sections 5 and
6), and the run of the port (spec/30_encoding.md section 1).
-/
namespace Sys2Proof.Proofs

open Sys2Proof.Machine Sys2Proof.Safety

/-! ### The engine some bytes further -/

/-- `t` is the engine of `s` after `count` byte requests: the cursor has moved, the key, the nonce and the fault
registers have not. -/
structure Forward (count : Nat) (s t : State) : Prop where
  k : t.k = s.k
  n : t.n = s.n
  configured : t.configured = s.configured
  fault : t.fault = s.fault
  lastErr : t.lastErr = s.lastErr
  index : cursorIndex t = (cursorIndex s + count) % 2 ^ 38

theorem Forward.refl (s : State) : Forward 0 s s :=
  ⟨rfl, rfl, rfl, rfl, rfl, (Nat.mod_eq_of_lt (cursorIndex_lt s)).symm⟩

theorem Forward.succ {count : Nat} {s t u : State} (h : Forward 1 s t) (h' : Forward count t u) :
    Forward (count + 1) s u where
  k := h'.k.trans h.k
  n := h'.n.trans h.n
  configured := h'.configured.trans h.configured
  fault := h'.fault.trans h.fault
  lastErr := h'.lastErr.trans h.lastErr
  index := by rw [h'.index, h.index]; omega

theorem forward_nextByte (s : State) (payload : List Byte) : Forward 1 s (respond codeOk payload (nextByte s).2) := by
  obtain ⟨hk, hn, hconf, hfault, herr, -⟩ := nextByte_frame s
  exact ⟨hk, hn, hconf, hfault, herr, cursorIndex_nextByte s⟩

theorem cursorIndex_new {key : KeyBytes} {nonce : NonceBytes} {idx : Index} {s t : State}
    (h : exec (.new 32 12 key nonce idx) s = .next t) : cursorIndex t = idx.toNat % 2 ^ 38 := by
  obtain rfl := outcome_next_inj.mp h
  exact cursorIndex_position idx s

/-- What NEW leaves: an engine with nothing cached. -/
theorem exec_new_ready {key : KeyBytes} {nonce : NonceBytes} {idx : Index} {s t : State}
    (h : exec (.new 32 12 key nonce idx) s = .next t) : CacheSound t ∧ t.configured = true := by
  obtain rfl := outcome_next_inj.mp h
  exact ⟨(fun hv => by cases hv), rfl⟩

/-! ### A run of byte commands -/

theorem exec_byte_forward {i : Instr} {s : State} (hi : opcode i = 0x12 ∨ opcode i = 0x13)
    (hs : s.configured = true) : ∃ t, exec i s = .next t ∧ Forward 1 s t := by
  cases i with
  | xorb data => exact ⟨_, exec_xorb hs data, forward_nextByte s _⟩
  | nextb => exact ⟨_, exec_nextb hs, forward_nextByte s _⟩
  | qr | block | new | seek | rdst => simp [opcode] at hi

theorem runCommands_bytes {cmds : List Instr} {s : State} (hs : s.configured = true)
    (hcmds : ∀ i ∈ cmds, opcode i = 0x12 ∨ opcode i = 0x13) :
    ∃ t, runCommands cmds s = .next t ∧ Forward cmds.length s t := by
  induction cmds generalizing s with
  | nil => exact ⟨s, rfl, .refl s⟩
  | cons i rest ih =>
    obtain ⟨hi, hrest⟩ := List.forall_mem_cons.mp hcmds
    obtain ⟨t, ht, hst⟩ := exec_byte_forward hi hs
    obtain ⟨u, hu, htu⟩ := ih (hst.configured.trans hs) hrest
    exact ⟨u, by rw [runCommands, ht]; exact hu, hst.succ htu⟩

/-- Settles O46: the run moves the cursor by its length, and the index after it is read back as `CTR` and `OFF`. -/
theorem cursorAfterARunOfBytes : Obligations.CursorAfterARunOfBytes := by
  intro key nonce idx cmds s t h hcmds
  obtain ⟨-, hconf⟩ := exec_new_ready h
  obtain ⟨u, hu, htu⟩ := runCommands_bytes hconf hcmds
  have hindex := htu.index
  have hoff := u.off.isLt
  rw [cursorIndex_new h, cursorIndex] at hindex
  refine ⟨u, hu, ?_, ?_, htu.k, htu.n, htu.fault, htu.lastErr⟩ <;> omega

/-! ### What the host reads of a response -/

theorem responseCode_respond (code : Byte) (payload : List Byte) (s : State) :
    responseCode (respond code payload s) = code := responseOf_code ..

theorem payloadByte_respond (code b : Byte) (s : State) : payloadByte (respond code [b] s) = b := responseOf_payload ..

theorem responseCode_raise_ne_ok (e : ErrCode) (s : State) : responseCode (raise e s) ≠ codeOk :=
  (responseCode_respond ..).trans_ne (errCode_ne_ok e)

/-! ### APPLY -/

/-- APPLY on a byte at a configured engine is a byte request, and then APPLY on the rest. -/
theorem applyMacro_cons {s : State} (hs : s.configured = true) (b : Byte) (rest : List Byte) :
    applyMacro (b :: rest) s =
      ((applyMacro rest (respond codeOk [xor8 b (nextByte s).1] (nextByte s).2)).1,
        xor8 b (nextByte s).1 :: (applyMacro rest (respond codeOk [xor8 b (nextByte s).1] (nextByte s).2)).2) := by
  simp only [applyMacro, exec_xorb hs, responseCode_respond, payloadByte_respond, ne_eq, not_true_eq_false, if_false]

/-- Where no engine is configured, APPLY stops at the first byte. -/
theorem applyMacro_unconfigured {s : State} (hs : s.configured = false) {buf : List Byte} (hbuf : buf ≠ []) :
    applyMacro buf s = (raise .notConfigured s, buf) := by
  obtain ⟨b, rest, rfl⟩ := List.exists_cons_of_ne_nil hbuf
  simp only [applyMacro, exec_unconfigured (i := .xorb b) (by simp [opcode]) hs, if_pos (responseCode_raise_ne_ok _ s)]

/-- APPLY at a configured engine with a sound cache: the bytes, the engine afterwards and its cache. -/
theorem applyMacro_spec (buf : List Byte) {s : State} (hc : CacheSound s) (hs : s.configured = true) :
    (applyMacro buf s).2 = xorKeystream s.k s.n (cursorIndex s) buf ∧
      Forward buf.length s (applyMacro buf s).1 ∧ CacheSound (applyMacro buf s).1 := by
  induction buf generalizing s with
  | nil => exact ⟨rfl, .refl s, hc⟩
  | cons b rest ih =>
    have hstep := forward_nextByte s [xor8 b (nextByte s).1]
    have hsound' : CacheSound (respond codeOk [xor8 b (nextByte s).1] (nextByte s).2) := nextByte_sound hc hs
    obtain ⟨hbytes, hforward, hsound⟩ := ih hsound' (hstep.configured.trans hs)
    have hindex : cursorIndex (respond codeOk [xor8 b (nextByte s).1] (nextByte s).2) % 2 ^ 38 =
        (cursorIndex s + 1) % 2 ^ 38 := by rw [hstep.index, Nat.mod_mod]
    rw [applyMacro_cons hs]
    refine ⟨?_, hstep.succ hforward, hsound⟩
    rw [hbytes, hstep.k, hstep.n, xorKeystream_mod _ _ rest hindex, nextByte_byte hc, xorKeystream_cons]
    rfl

/-- Settles O41, by induction over the buffer, and by the fault at its first byte where no engine is configured. -/
theorem applyXorsTheKeystream : Obligations.ApplyXorsTheKeystream := by
  refine ⟨fun buf s hc hs => ?_, fun _ => rfl, fun buf s hs hbuf => applyMacro_unconfigured hs hbuf⟩
  obtain ⟨hbytes, hforward, hsound⟩ := applyMacro_spec buf hc hs
  exact ⟨hbytes, hforward.index, hforward.k, hforward.n, hforward.configured.trans hs, hsound, hforward.fault,
    hforward.lastErr⟩

/-- Settles O45: the bytes of `applyMacro_spec` are a function of key, nonce, index and buffer. -/
theorem applyDependsOnTheIndexOnly : Obligations.ApplyDependsOnTheIndexOnly := by
  intro buf s t hcs hct hs ht hk hn hindex
  rw [(applyMacro_spec buf hcs hs).1, (applyMacro_spec buf hct ht).1, hk, hn, hindex]

/-- Exclusive-or with the keystream is its own inverse. -/
theorem xorKeystream_xorKeystream (k : KeyWords) (n : NonceWords) (index : Nat) (buf : List Byte) :
    xorKeystream k n index (xorKeystream k n index buf) = buf := by
  induction buf generalizing index with
  | nil => rfl
  | cons b rest ih => rw [xorKeystream_cons, xorKeystream_cons, ih, BitVec.xor_assoc, BitVec.xor_self, BitVec.xor_zero]

/-- Settles O43: both runs combine their buffer with the keystream from the same index. -/
theorem applyIsSelfInverse : Obligations.ApplyIsSelfInverse := by
  intro key nonce idx buf s t h
  obtain ⟨hc, hconf⟩ := exec_new_ready h
  rw [(applyMacro_spec _ hc hconf).1, (applyMacro_spec _ hc hconf).1, xorKeystream_xorKeystream]

/-- What SEEK leaves of a configured engine with a sound cache: the same key and nonce at the new index. -/
theorem exec_seek_sound {idx : Index} {s t : State} (hc : CacheSound s) (hs : s.configured = true)
    (h : exec (.seek idx) s = .next t) :
    t.k = s.k ∧ t.n = s.n ∧ t.configured = true ∧ CacheSound t ∧ cursorIndex t = idx.toNat % 2 ^ 38 := by
  obtain rfl : respond codeOk [] (discardStale (position idx s)) = t :=
    outcome_next_inj.mp ((if_neg (by simp [hs])).symm.trans h)
  have hkeeps := keeps_discardStale idx hs
  refine ⟨?_, ?_, hkeeps.configured hs, hkeeps.cache hc, ?_⟩
  · rw [discardStale_eq]; rfl
  · rw [discardStale_eq]; rfl
  · rw [discardStale_eq]; exact cursorIndex_position idx s

/-- Settles O44: SEEK brings the engine back to the index that NEW set, whatever it has cached since. -/
theorem seekBackReencrypts : Obligations.SeekBackReencrypts := by
  intro key nonce idx buf s t u h hu
  obtain ⟨hc, hconf⟩ := exec_new_ready h
  obtain ⟨hbytes, hforward, hsound⟩ := applyMacro_spec buf hc hconf
  obtain ⟨hk, hn, hconf', hc', hindex⟩ := exec_seek_sound hsound (hforward.configured.trans hconf) hu
  obtain ⟨hbytes', hforward', -⟩ := applyMacro_spec buf hc' hconf'
  have hindex' : cursorIndex u = cursorIndex t := hindex.trans (cursorIndex_new h).symm
  refine ⟨?_, ?_, hforward'.k.trans hk, hforward'.n.trans hn⟩
  · rw [hbytes', hbytes, hk, hn, hforward.k, hforward.n, hindex']
  · rw [hforward'.index, hforward.index, hindex']

/-! ### KEYSTREAM -/

theorem keystreamMacro_succ {s : State} (hs : s.configured = true) (count : Nat) :
    keystreamMacro (count + 1) s =
      ((keystreamMacro count (respond codeOk [(nextByte s).1] (nextByte s).2)).1,
        (nextByte s).1 :: (keystreamMacro count (respond codeOk [(nextByte s).1] (nextByte s).2)).2) := by
  simp only [keystreamMacro, exec_nextb hs, responseCode_respond, payloadByte_respond, ne_eq, not_true_eq_false,
    if_false]

/-- Where no engine is configured, KEYSTREAM stops before its first byte. -/
theorem keystreamMacro_unconfigured {s : State} (hs : s.configured = false) {count : Nat} (hcount : 0 < count) :
    keystreamMacro count s = (raise .notConfigured s, []) := by
  obtain ⟨c, rfl⟩ := Nat.exists_eq_succ_of_ne_zero hcount.ne'
  simp only [keystreamMacro, exec_unconfigured (i := .nextb) (by simp [opcode]) hs,
    if_pos (responseCode_raise_ne_ok _ s)]

/-- A keystream byte is the exclusive-or of 0 with it. -/
theorem keystreamMacro_eq_applyMacro (count : Nat) {s : State} (hs : s.configured = true) :
    keystreamMacro count s = applyMacro (List.replicate count 0) s := by
  induction count generalizing s with
  | zero => rfl
  | succ count ih =>
    have hstep := forward_nextByte s [(nextByte s).1]
    rw [keystreamMacro_succ hs, List.replicate_succ, applyMacro_cons hs, zero_xor8, ih (hstep.configured.trans hs)]

/-- Settles O42: without a configured engine both stop at their first command, with the same fault. -/
theorem keystreamIsApplyOnZeros : Obligations.KeystreamIsApplyOnZeros := by
  refine ⟨fun count s hs => keystreamMacro_eq_applyMacro count hs, fun count s => ?_, fun _ => rfl,
    fun count s hs hcount => keystreamMacro_unconfigured hs hcount⟩
  cases hs : s.configured with
  | true => rw [keystreamMacro_eq_applyMacro count hs]
  | false =>
    rcases Nat.eq_zero_or_pos count with rfl | hcount
    · rfl
    · have hbuf : List.replicate count (0 : Byte) ≠ [] := by simp [hcount.ne']
      rw [keystreamMacro_unconfigured hs hcount, applyMacro_unconfigured hs hbuf]

/-! ### The run of the port -/

/-- The step that accepts the frame of a command: the command's meaning, with the port taken. -/
theorem step_offer {i : Instr} {s t : State} (h : exec i s = .next t) (rest : List PortIn)
    (received : List Response) :
    step (setPorts true none (offer (encode i) :: rest) received s) = .next (setPorts false t.rsp rest received t) := by
  have haccept : step (setPorts true none (offer (encode i) :: rest) received s) =
      serveFrame (encode i) (setPorts false none rest received s) := step_accept (p := offer (encode i)) rfl rfl rfl rfl
  rw [haccept, serveFrame_ok (decode_encode i)]
  exact exec_setPorts h false none rest received

/-- The step in which the host takes the response: the port is free again. -/
theorem step_collect (r : Response) (rest : List PortIn) (received : List Response) (s : State) :
    step (setPorts false (some r) (collect :: rest) received s) =
      .next (setPorts true none rest (received ++ [r]) s) :=
  step_take (p := collect) rfl rfl (.inl rfl) rfl rfl

theorem run_two_steps {s t u : State} (hs : step s = .next t) (ht : step t = .next u) (k : Nat) :
    Sys2Proof.core.run (2 * (k + 1)) s = Sys2Proof.core.run (2 * k) u := by
  have hs' : Sys2Proof.core.step s = .next t := hs
  have ht' : Sys2Proof.core.step t = .next u := ht
  simp only [Nat.mul_succ, Host.Core.run, hs', ht']

/-- Two steps a command: the machine under the pin script of the commands runs them on the state of its registers. -/
theorem run_driveFrames (cmds : List Instr) (s : State) (received : List Response) :
    ∃ u, runCommands cmds s = .next u ∧
      Sys2Proof.core.run (2 * cmds.length) (setPorts true none (driveFrames (cmds.map encode)) received s) =
        .next (setPorts true none [] (received ++ responsesOf cmds s) u) ∧
      (responsesOf cmds s).length = cmds.length := by
  induction cmds generalizing s received with
  | nil => exact ⟨s, rfl, by rw [responsesOf, List.append_nil]; rfl, rfl⟩
  | cons i rest ih =>
    obtain ⟨t, ht, hsome⟩ := exec_completes i s
    obtain ⟨r, hr⟩ := Option.isSome_iff_exists.mp hsome
    obtain ⟨u, hu, hrun, hlength⟩ := ih t (received ++ [r])
    have hresponses : responsesOf (i :: rest) s = r :: responsesOf rest t := by
      simp only [responsesOf, ht, hr, Option.toList_some, List.singleton_append]
    have hoffer := step_offer ht (collect :: driveFrames (rest.map encode)) received
    rw [hr] at hoffer
    refine ⟨u, by rw [runCommands, ht]; exact hu, ?_, ?_⟩
    · rw [hresponses, List.append_cons]
      exact (run_two_steps hoffer (step_collect r _ received t) rest.length).trans hrun
    · rw [hresponses, List.length_cons, List.length_cons, hlength]

/-- Settles O59: the state of the obligation is its own registers with the pin script at the ports. -/
theorem portRunIsTheCommandSequence : Obligations.PortRunIsTheCommandSequence := by
  intro cmds s hready hrsp hhost
  obtain ⟨u, hu, hrun, hlength⟩ := run_driveFrames cmds s s.received
  have hs : setPorts true none (driveFrames (cmds.map encode)) s.received s = s := by
    rw [← hready, ← hrsp, ← hhost]
    rfl
  rw [hs] at hrun
  exact ⟨u, _, hu, hrun, rfl, hlength⟩

end Sys2Proof.Proofs

/-!
PROOF. The mixing loses nothing, its lanes commute, and the sequencer computes it (spec/40_quarter_round.md section 3;
spec/41_block_transform.md sections 2 to 4).
-/
namespace Sys2Proof.Proofs

open Sys2Proof.Machine Sys2Proof.Safety

/-! ### The quarter-round backwards -/

/-- Rotating by `n` and by `32 - n` moves every bit once around the word. -/
theorem rotl32_rotl32_sub (x : Word) {n : Nat} (h0 : 0 < n) (hn : n < 32) : rotl32 (rotl32 x n) (32 - n) = x := by
  apply BitVec.eq_of_getLsbD_eq
  intro j hj
  rw [rotl32_getLsbD _ (by omega) hj, rotl32_getLsbD _ hn (by split_ifs <;> omega)]
  congr 1
  split_ifs <;> omega

/-- A line of the quarter-round backwards: the old `p` and the old `s` from the new ones. -/
def arxBack (p' q s' : Word) (n : Nat) : Word × Word := (p' - q, xor32 (rotl32 s' (32 - n)) p')

section Line

variable (p q s : Word) {n : Nat} (h0 : 0 < n) (hn : n < 32)
include h0 hn

theorem arxBack_arx : arxBack (arx p q s n).1 q (arx p q s n).2 n = (p, s) := by
  simp only [arxBack, arx, rotl32_rotl32_sub _ h0 hn, xor32_cancel]
  rw [add32, BitVec.add_sub_cancel]

theorem arx_arxBack : arx (arxBack p q s n).1 q (arxBack p q s n).2 n = (p, s) := by
  have hsum : add32 (p - q) q = p := BitVec.sub_add_cancel p q
  have hrot : rotl32 (rotl32 s (32 - n)) n = s := by
    have h := rotl32_rotl32_sub s (n := 32 - n) (by omega) (by omega)
    rwa [Nat.sub_sub_self hn.le] at h
  simp only [arxBack, arx, hsum, xor32_cancel, hrot]

end Line

/-- The quarter-round backwards: its four lines undone, the last first. -/
def quarterRoundBack (q : Quad) : Quad :=
  let (c, b) := arxBack q.c q.d q.b 7
  let (a, d) := arxBack q.a b q.d 8
  let (c, b) := arxBack c d b 12
  let (a, d) := arxBack a b d 16
  ⟨a, b, c, d⟩

theorem quarterRoundBack_quarterRound : Function.LeftInverse quarterRoundBack quarterRound := by
  intro q
  simp only [quarterRoundBack, quarterRound, arxBack_arx, Nat.reduceLT]

theorem quarterRound_quarterRoundBack : Function.RightInverse quarterRoundBack quarterRound := by
  intro q
  simp only [quarterRoundBack, quarterRound, arx_arxBack, Nat.reduceLT]

/-- Settles O16: each line can be undone, as it keeps the word it adds. -/
theorem quarterRoundIsBijective : Obligations.QuarterRoundIsBijective :=
  ⟨quarterRoundBack_quarterRound.injective, quarterRound_quarterRoundBack.surjective⟩

/-! ### Four words of a matrix -/

/-- The words of the matrix that the tuple selects. -/
def quadOf (t : Tuple) (x : Matrix) : Quad := ⟨x[t.i], x[t.j], x[t.k], x[t.l]⟩

/-- The matrix with other words where the tuple points. -/
def setQuad (t : Tuple) (q : Quad) (x : Matrix) : Matrix :=
  (((x.set t.i q.a).set t.j q.b).set t.k q.c).set t.l q.d

theorem qrAt_eq_setQuad (t : Tuple) (x : Matrix) : qrAt t x = setQuad t (quarterRound (quadOf t x)) x := rfl

theorem setQuad_getElem (t : Tuple) (q : Quad) (x : Matrix) (m : Fin 16) :
    (setQuad t q x)[m] =
      if t.l = m then q.d else if t.k = m then q.c else if t.j = m then q.b else if t.i = m then q.a else x[m] := by
  simp only [setQuad, Fin.getElem_fin, Vector.getElem_set, Fin.val_inj]

/-- The four indices of a tuple. -/
def indices (t : Tuple) : List (Fin 16) := [t.i, t.j, t.k, t.l]

section Quad

variable {t : Tuple}

theorem setQuad_getElem_of_notMem {m : Fin 16} (hm : m ∉ indices t) (q : Quad) (x : Matrix) :
    (setQuad t q x)[m] = x[m] := by
  simp only [indices, List.mem_cons, List.not_mem_nil, or_false, not_or] at hm
  obtain ⟨hi, hj, hk, hl⟩ := hm
  rw [setQuad_getElem, if_neg (Ne.symm hl), if_neg (Ne.symm hk), if_neg (Ne.symm hj), if_neg (Ne.symm hi)]

/-- What is set where the tuple points does not depend on the matrix. -/
theorem setQuad_getElem_of_mem {m : Fin 16} (hm : m ∈ indices t) (q : Quad) (x y : Matrix) :
    (setQuad t q x)[m] = (setQuad t q y)[m] := by
  rw [setQuad_getElem, setQuad_getElem]
  simp only [indices, List.mem_cons, List.not_mem_nil, or_false] at hm
  split_ifs with hl hk hj hi
  · rfl
  · rfl
  · rfl
  · rfl
  · rcases hm with rfl | rfl | rfl | rfl <;> contradiction

theorem quadOf_setQuad (ht : (indices t).Nodup) (q : Quad) (x : Matrix) : quadOf t (setQuad t q x) = q := by
  simp only [indices, List.nodup_cons, List.mem_cons, List.not_mem_nil, or_false, not_or] at ht
  obtain ⟨⟨hij, hik, hil⟩, ⟨hjk, hjl⟩, hkl, -⟩ := ht
  simp only [quadOf, setQuad_getElem, if_pos, if_neg (Ne.symm hij), if_neg (Ne.symm hik), if_neg (Ne.symm hil),
    if_neg (Ne.symm hjk), if_neg (Ne.symm hjl), if_neg (Ne.symm hkl)]

theorem setQuad_quadOf (t : Tuple) (x : Matrix) : setQuad t (quadOf t x) x = x := by
  apply matrix_ext
  intro m
  rw [setQuad_getElem]
  split_ifs with hl hk hj hi
  · rw [← hl]; rfl
  · rw [← hk]; rfl
  · rw [← hj]; rfl
  · rw [← hi]; rfl
  · rfl

theorem setQuad_setQuad (t : Tuple) (q q' : Quad) (x : Matrix) : setQuad t q' (setQuad t q x) = setQuad t q' x := by
  apply matrix_ext
  intro m
  by_cases hm : m ∈ indices t
  · exact setQuad_getElem_of_mem hm q' _ _
  · rw [setQuad_getElem_of_notMem hm, setQuad_getElem_of_notMem hm, setQuad_getElem_of_notMem hm]

/-! ### The rounds backwards -/

/-- The quarter-round in place, backwards. -/
def qrAtBack (t : Tuple) (x : Matrix) : Matrix := setQuad t (quarterRoundBack (quadOf t x)) x

theorem qrAt_bijective (ht : (indices t).Nodup) : Function.Bijective (qrAt t) := by
  refine Function.bijective_iff_has_inverse.mpr ⟨qrAtBack t, fun x => ?_, fun x => ?_⟩
  · rw [qrAtBack, qrAt_eq_setQuad, quadOf_setQuad ht, setQuad_setQuad, quarterRoundBack_quarterRound, setQuad_quadOf]
  · rw [qrAt_eq_setQuad, qrAtBack, quadOf_setQuad ht, setQuad_setQuad, quarterRound_quarterRoundBack, setQuad_quadOf]

end Quad

theorem nodup_indices_columnTuple (lane : Fin 4) : (indices (columnTuple lane)).Nodup := by decide +revert

theorem nodup_indices_diagonalTuple (lane : Fin 4) : (indices (diagonalTuple lane)).Nodup := by decide +revert

theorem runLanes_cons (tuple : Fin 4 → Tuple) (lane : Fin 4) (lanes : List (Fin 4)) :
    runLanes tuple (lane :: lanes) = runLanes tuple lanes ∘ qrAt (tuple lane) := rfl

theorem runLanes_bijective {tuple : Fin 4 → Tuple} (htuple : ∀ lane, (indices (tuple lane)).Nodup)
    (lanes : List (Fin 4)) : Function.Bijective (runLanes tuple lanes) := by
  induction lanes with
  | nil => exact Function.bijective_id
  | cons lane lanes ih =>
    rw [runLanes_cons]
    exact ih.comp (qrAt_bijective (htuple lane))

theorem doubleRounds_succ_eq_comp (count : Nat) :
    doubleRounds (count + 1) = doubleRounds count ∘ diagonalRound ∘ columnRound := by
  funext x
  rw [doubleRounds, Function.comp_apply, Function.comp_apply]

theorem doubleRounds_bijective (count : Nat) : Function.Bijective (doubleRounds count) := by
  induction count with
  | zero => exact Function.bijective_id
  | succ count ih =>
    have hcolumn : Function.Bijective columnRound := runLanes_bijective nodup_indices_columnTuple _
    have hdiagonal : Function.Bijective diagonalRound := runLanes_bijective nodup_indices_diagonalTuple _
    rw [doubleRounds_succ_eq_comp]
    exact ih.comp (hdiagonal.comp hcolumn)

/-- Settles O21: every quarter-round in place is a bijection, as its tuple has four distinct indices. -/
theorem roundsAreBijective : Obligations.RoundsAreBijective := doubleRounds_bijective _

/-! ### The order of the lanes -/

section Disjoint

variable {t u : Tuple} (h : (indices t).Disjoint (indices u))
include h

theorem quadOf_setQuad_of_disjoint (q : Quad) (x : Matrix) : quadOf t (setQuad u q x) = quadOf t x := by
  have hword (m : Fin 16) (hm : m ∈ indices t) : (setQuad u q x)[m] = x[m] := setQuad_getElem_of_notMem (h hm) q x
  simp only [quadOf, hword _ (show t.i ∈ indices t by simp [indices]), hword _ (show t.j ∈ indices t by simp [indices]),
    hword _ (show t.k ∈ indices t by simp [indices]), hword _ (show t.l ∈ indices t by simp [indices])]

theorem setQuad_comm (q r : Quad) (x : Matrix) : setQuad t q (setQuad u r x) = setQuad u r (setQuad t q x) := by
  apply matrix_ext
  intro m
  by_cases hm : m ∈ indices t
  · rw [setQuad_getElem_of_notMem (h hm)]
    exact setQuad_getElem_of_mem hm q _ _
  · rw [setQuad_getElem_of_notMem hm]
    by_cases hu : m ∈ indices u
    · exact setQuad_getElem_of_mem hu r _ _
    · rw [setQuad_getElem_of_notMem hu, setQuad_getElem_of_notMem hu, setQuad_getElem_of_notMem hm]

/-- Quarter-rounds in place on disjoint words commute. -/
theorem qrAt_comm (x : Matrix) : qrAt t (qrAt u x) = qrAt u (qrAt t x) := by
  simp only [qrAt_eq_setQuad]
  rw [quadOf_setQuad_of_disjoint h, quadOf_setQuad_of_disjoint h.symm, setQuad_comm h]

end Disjoint

theorem disjoint_columnTuple {a b : Fin 4} (h : a ≠ b) :
    (indices (columnTuple a)).Disjoint (indices (columnTuple b)) := by
  revert a b
  unfold List.Disjoint
  decide

theorem disjoint_diagonalTuple {a b : Fin 4} (h : a ≠ b) :
    (indices (diagonalTuple a)).Disjoint (indices (diagonalTuple b)) := by
  revert a b
  unfold List.Disjoint
  decide

/-- Lanes on pairwise disjoint words may run in any order. -/
theorem runLanes_perm {tuple : Fin 4 → Tuple}
    (htuple : ∀ a b, a ≠ b → (indices (tuple a)).Disjoint (indices (tuple b))) {lanes lanes' : List (Fin 4)}
    (h : lanes.Perm lanes') (x : Matrix) : runLanes tuple lanes x = runLanes tuple lanes' x := by
  refine h.foldl_eq' (fun a _ b _ y => ?_) x
  by_cases hab : a = b
  · rw [hab]
  · exact qrAt_comm (htuple b a (Ne.symm hab)) y

/-- Settles O20: the lanes of a round work on disjoint words. -/
theorem lanesRunInAnyOrder : Obligations.LanesRunInAnyOrder :=
  fun _ x h =>
    ⟨runLanes_perm (fun _ _ => disjoint_columnTuple) h x, runLanes_perm (fun _ _ => disjoint_diagonalTuple) h x⟩

/-! ### The sequencer -/

/-- In double-round `r` the four steps from `8 r` on are the lanes of the column round. -/
theorem stepTuple_column (r : Fin 10) (lane : Fin 4) :
    stepTuple (BitVec.ofNat 7 (8 * r.val + lane.val)) = columnTuple lane := by decide +revert

/-- In double-round `r` the four steps from `8 r + 4` on are the lanes of the diagonal round. -/
theorem stepTuple_diagonal (r : Fin 10) (lane : Fin 4) :
    stepTuple (BitVec.ofNat 7 (8 * r.val + 4 + lane.val)) = diagonalTuple lane := by decide +revert

/-- Four steps of the sequencer at which it selects the tuples of the four lanes are a round. -/
theorem ticks_runLanes {tuple : Fin 4 → Tuple} {q : Nat}
    (hq : ∀ lane : Fin 4, stepTuple (BitVec.ofNat 7 (q + lane.val)) = tuple lane) (x o : Matrix) :
    Engine.ticks 4 ⟨x, o, BitVec.ofNat 7 q⟩ = ⟨runLanes tuple [0, 1, 2, 3] x, o, BitVec.ofNat 7 (q + 4)⟩ := by
  have hnext (j : Nat) : BitVec.ofNat 7 j + 1 = BitVec.ofNat 7 (j + 1) := (BitVec.ofNat_add j 1).symm
  have h0 : stepTuple (BitVec.ofNat 7 q) = tuple 0 := hq 0
  have h1 : stepTuple (BitVec.ofNat 7 (q + 1)) = tuple 1 := hq 1
  have h2 : stepTuple (BitVec.ofNat 7 (q + 1 + 1)) = tuple 2 := hq 2
  have h3 : stepTuple (BitVec.ofNat 7 (q + 1 + 1 + 1)) = tuple 3 := hq 3
  simp only [Engine.ticks, engine_tick_mk, hnext, h0, h1, h2, h3]
  rfl

/-- After `8 r` steps `X` has had `r` double-rounds and `O` is still the initial matrix (rule R120). -/
theorem ticks_doubleRounds (x : Matrix) (r : Nat) (hr : r ≤ 10) :
    Engine.ticks (8 * r) (Engine.start x) = ⟨doubleRounds r x, x, BitVec.ofNat 7 (8 * r)⟩ := by
  induction r with
  | zero => rfl
  | succ r ih =>
    calc Engine.ticks (8 * (r + 1)) (Engine.start x)
      _ = Engine.ticks (4 + (4 + 8 * r)) (Engine.start x) := by rw [show 8 * (r + 1) = 4 + (4 + 8 * r) by omega]
      _ = Engine.ticks 4 (Engine.ticks 4 ⟨doubleRounds r x, x, BitVec.ofNat 7 (8 * r)⟩) := by
        rw [engine_ticks_add, engine_ticks_add, ih (by omega)]
      _ = Engine.ticks 4 ⟨columnRound (doubleRounds r x), x, BitVec.ofNat 7 (8 * r + 4)⟩ := by
        rw [ticks_runLanes (stepTuple_column ⟨r, by omega⟩), columnRound]
      _ = ⟨diagonalRound (columnRound (doubleRounds r x)), x, BitVec.ofNat 7 (8 * r + 4 + 4)⟩ := by
        rw [ticks_runLanes (stepTuple_diagonal ⟨r, by omega⟩), diagonalRound]
      _ = ⟨doubleRounds (r + 1) x, x, BitVec.ofNat 7 (8 * (r + 1))⟩ := by
        rw [doubleRounds_succ, show 8 * (r + 1) = 8 * r + 4 + 4 by omega]

theorem engine_run_eq_blockOf (k : KeyWords) (n : NonceWords) (ctr : Word) :
    Engine.run (initMatrix k n ctr) = blockOf k n ctr := by
  have hticks := ticks_doubleRounds (initMatrix k n ctr) 10 (by decide)
  rw [blockOf_eq, finalMatrix_eq, Engine.run, show 80 = 8 * 10 from rfl, hticks]
  rfl

/-- The closed form of the tuples of rules R115 and R116, at each of the 80 steps. -/
theorem stepTuple_closed_form (q : Fin 80) :
    stepTuple (BitVec.ofNat 7 q.val) =
      if q.val / 4 % 2 = 0 then
        ⟨Fin.ofNat 16 (q.val % 4), Fin.ofNat 16 (4 + q.val % 4), Fin.ofNat 16 (8 + q.val % 4),
          Fin.ofNat 16 (12 + q.val % 4)⟩
      else
        ⟨Fin.ofNat 16 (q.val % 4), Fin.ofNat 16 (4 + (q.val % 4 + 1) % 4), Fin.ofNat 16 (8 + (q.val % 4 + 2) % 4),
          Fin.ofNat 16 (12 + (q.val % 4 + 3) % 4)⟩ := by
  decide +kernel +revert

/-- Settles O23: the low three bits of `STEP` select the phase and the lane, so eight steps are a double-round. -/
theorem sequencerComputesTheBlock : Obligations.SequencerComputesTheBlock := by
  refine ⟨fun q hq => ?_, fun x r hr => ticks_doubleRounds x r hr, engine_run_eq_blockOf⟩
  have hform := stepTuple_closed_form ⟨q.toNat, hq⟩
  rwa [BitVec.ofNat_toNat, BitVec.setWidth_eq] at hform

end Sys2Proof.Proofs
